-- ==== Sys2Proof/Word.lean ====
section
/-! DEFINITION. The word types of the NO-6502 (spec/00_scope.md R7: XLEN 8, ALEN 16) and the type of a sparse memory. -/

namespace Sys2Proof

/-- A data byte: A, X, Y, SP, every bus datum (R7 `XLEN`). -/
abbrev Byte := BitVec 8

/-- A CPU bus address, and the program counter (R7 `ALEN`). -/
abbrev Word := BitVec 16

/-- An address of the PPU space (R60: 14 bits). -/
abbrev VAddr := BitVec 14

/-- A byte memory: (address, byte) pairs, addresses strictly rising, no byte `$00` listed; an unlisted
address reads `$00` (log 24). The form is `Mem.wf`, the operations are in Machine/Memory.lean. -/
abbrev Mem := List Host.Cell

end Sys2Proof
end

