-- ==== Sys2Proof/Config.lean ====
section
/-! DEFINITION. What an implementation fixes (spec/00_scope.md R7: the cartridge and the audio parameters) and the
free values, constants with no body, for what the spec leaves open (spec/93_implementation_defined.md part 1). -/

namespace Sys2Proof

/-- The nametable mirroring flag of the cartridge (R7, R439). -/
inductive Mirroring where
  | horizontal
  | vertical
  deriving DecidableEq, Repr

/-- `MAPPER_ID` (R7): the five mappers a cartridge may have (R403: no other one is ever loaded). -/
inductive MapperKind where
  | nrom
  | mmc1
  | uxrom
  | cnrom
  | gxrom
  deriving DecidableEq, Repr

/-- The configuration of R7, fixed before reset and never changed by a step. It is carried in `State` as data
(log 1), so that a statement about every state is one about every cartridge. `MAPPER_ID` is the constructor of the
state's mapper registers. -/
structure Cfg where
  /-- `PRG_BANKS`, in units of 16 KiB. -/
  prgBanks : Nat
  /-- `PRG`, `16384 * prgBanks` bytes. -/
  prg : Mem
  /-- `CHR_BANKS`, in units of 8 KiB; 0 means CHR-RAM. -/
  chrBanks : Nat
  /-- `CHR`, `8192 * chrBanks` bytes. -/
  chr : Mem
  /-- `MIRRORING`. -/
  mirroring : Mirroring
  /-- `SAMPLE_RATE` (92_eei_decisions.md OPEN-3). -/
  sampleRate : Nat
  /-- `BUFFER_CAPACITY` (OPEN-3). -/
  bufferCapacity : Nat
  /-- `CPU_CLOCK` (OPEN-3). -/
  cpuClock : Nat
  deriving DecidableEq, Repr

/-- The configuration `State.reset` is given: a blank NROM cartridge of one PRG bank of `$00` with CHR-RAM.
DESIGN CHOICE (log 1); the audio parameters are PRESUMED (log 14). -/
def Cfg.blank : Cfg where
  prgBanks := 1
  prg := []
  chrBanks := 0
  chr := []
  mirroring := .horizontal
  sampleRate := 44100
  bufferCapacity := 4096
  cpuClock := 1789773

/-- The free byte of draw number `n`: what a read returns where the spec says "any value" (U3 to U8). Safe (log 3, 4). -/
opaque Config.freeByte : Nat → Byte

/-- The host's button byte at draw number `n`, when `State.input` holds none (U14, OPEN-4). Safe (log 5). -/
opaque Config.buttons : Nat → Byte

/-- `Rgb(colour index, mask)` of R445 (OPEN-2): a 24-bit colour, red in the top byte. -/
opaque Config.rgb : BitVec 6 → Byte → BitVec 24

/-- `Mix(p1, p2, tri, noise)` of R469 (OPEN-1), "returning a float". -/
opaque Config.mix : BitVec 4 → BitVec 4 → BitVec 4 → BitVec 4 → Float

end Sys2Proof
end

