-- ==== Sys2Proof/Machine/State.lean ====
section
/-! DEFINITION. The state of the machine as plain data, every piece spec/10_state.md names, and its value after
reset (70_reset_and_hazards.md R601). INVENTORY.md lists each field with its rule. -/

namespace Sys2Proof.Machine

/-! ## Why a step can stop -/

/-- The fatal errors of 60_exceptions.md R400. It is what `State.fault` holds: the machine goes on to a next state
with `State.fault` set, and no step answers the outcome `fault` (log 6). The kinds R402 and R403 call unreachable
are left out (log 7). -/
inductive Fault where
  /-- `UnimplementedOpcode(op, pc0)`: raised by the 72 bytes of R126 (47_unofficial.md R337) and by nothing else
  (R401). Safe: it is the spec's own effect. -/
  | unimplementedOpcode (op : Byte) (pc0 : Word)
  deriving DecidableEq, Repr

/-- Why an instruction has no meaning. No arm of `exec` answers one. -/
inductive Refusal where
  /-- Raised by an arm of `exec` whose instruction has no meaning yet; no arm is one. Safe. -/
  | notModelled (mnemonic : String)
  deriving DecidableEq, Repr

/-! ## CPU -/

/-- The CPU registers and flags (10_state.md R20, R23, R24). -/
structure Cpu where
  a : Byte
  x : Byte
  y : Byte
  /-- The stack pointer, an offset into page 1 (R22). -/
  sp : Byte
  pc : Word
  n : Bool
  v : Bool
  d : Bool
  i : Bool
  z : Bool
  c : Bool
  deriving DecidableEq, Repr

/-! ## PPU -/

/-- The state of a two-write register (R436, R437). -/
inductive WriteLatch where
  | first
  | second
  deriving DecidableEq, Repr

/-- An OAM entry: Y, tile, attributes, X (R443). -/
structure SpriteEntry where
  yPos : Byte
  tile : Byte
  attr : Byte
  xPos : Byte
  deriving DecidableEq, Repr

/-- A loaded sprite shifter (R444). -/
structure SpriteSlot where
  low : Byte
  high : Byte
  xPos : Byte
  attr : Byte
  deriving DecidableEq, Repr

/-- The background fetch latches `ppu.bg_*` (R37, R442, log 11). -/
structure BgLatches where
  tile : Byte
  attr : Byte
  low : Byte
  high : Byte
  deriving DecidableEq, Repr

/-- The background shift registers `ppu.bg_*` (R37, R442 "two parallel shift structures"): the pattern bits and the
palette-select bits of the pixels to come, the next pixel's at bit 7. Their width and loading are the model's (log 11). -/
structure BgShifters where
  patternLow : Byte
  patternHigh : Byte
  paletteLow : Byte
  paletteHigh : Byte
  deriving DecidableEq, Repr

/-- What R445 writes to a framebuffer position: the arguments of `Rgb` (log 12). -/
structure Pixel where
  colour : BitVec 6
  mask : Byte
  deriving DecidableEq, Repr

/-- The framebuffer: position `256 * y + x` and its pixel, positions strictly rising; a position with no entry has
not been drawn since reset and is black (log 12). -/
abbrev Framebuffer := List (Nat × Pixel)

/-- The PPU state of R37. -/
structure Ppu where
  ctrl : Byte
  mask : Byte
  nmiOccurred : Bool
  sprite0Hit : Bool
  spriteOverflow : Bool
  oamAddr : Byte
  /-- 256 bytes. -/
  oam : Mem
  /-- Secondary OAM for the next line, at most 8 entries; `ppu.sec_count` is its length. -/
  secOam : List SpriteEntry
  sprite0Present : Bool
  /-- The loaded sprite shifters of the current line, slot 0 first, at most 8; a slot past the end is empty. -/
  spr : List SpriteSlot
  spr0OnLine : Bool
  addrLatch : WriteLatch
  scrollLatch : WriteLatch
  vramAddr : VAddr
  scrollX : Byte
  scrollY : Byte
  readBuffer : Byte
  /-- Two physical tables of 1024 bytes: table `t`, offset `o` at `1024 * t + o`. -/
  nametable : Mem
  /-- 32 bytes of 6 bits. -/
  palette : Mem
  bg : BgLatches
  bgShift : BgShifters
  /-- 0 to 261. -/
  line : Nat
  /-- 0 to 340. -/
  dot : Nat
  framebuffer : Framebuffer
  deriving DecidableEq, Repr

/-! ## APU -/

/-- An envelope unit (R490) with its register bits: bit 5 is the loop bit and the length-counter halt (R462). -/
structure Envelope where
  loop : Bool
  constant : Bool
  volume : BitVec 4
  start : Bool
  decay : BitVec 4
  div : BitVec 4
  deriving DecidableEq, Repr

/-- A sweep unit (R492) with its register bits. -/
structure Sweep where
  enable : Bool
  dividerPeriod : BitVec 3
  negate : Bool
  shift : BitVec 3
  reload : Bool
  div : BitVec 3
  deriving DecidableEq, Repr

/-- A pulse channel (R462, R490 to R493). -/
structure Pulse where
  enabled : Bool
  duty : BitVec 2
  env : Envelope
  sweep : Sweep
  period : BitVec 11
  timer : BitVec 11
  pos : BitVec 3
  length : Byte
  deriving DecidableEq, Repr

/-- The triangle channel (R463, R491, R494). -/
structure Triangle where
  enabled : Bool
  control : Bool
  reloadValue : BitVec 7
  reloadFlag : Bool
  linear : BitVec 7
  period : BitVec 11
  timer : BitVec 11
  pos : BitVec 5
  length : Byte
  deriving DecidableEq, Repr

/-- The noise channel (R464, R490, R491, R495). -/
structure Noise where
  enabled : Bool
  env : Envelope
  short : Bool
  periodIndex : BitVec 4
  timer : BitVec 12
  lfsr : BitVec 15
  length : Byte
  deriving DecidableEq, Repr

/-- The four channel outputs `Mix` takes for one sample (R469, log 13). -/
structure Sample where
  p1 : BitVec 4
  p2 : BitVec 4
  tri : BitVec 4
  noise : BitVec 4
  deriving DecidableEq, Repr

/-- The APU state of R38. -/
structure Apu where
  /-- CPU cycles since reset (R461 `apu.cyc`). -/
  cyc : Nat
  /-- The frame sequencer's accumulator (R461 `apu.fs`). -/
  fs : Nat
  fiveStep : Bool
  irqInhibit : Bool
  frameFlag : Bool
  pulse1 : Pulse
  pulse2 : Pulse
  triangle : Triangle
  noise : Noise
  /-- The sample timer's accumulator (R469 `apu.sacc`). -/
  sacc : Nat
  /-- The samples since the last hand-off, oldest first; `apu.wpos` is its length. -/
  buffer : List Sample
  deriving DecidableEq, Repr

/-! ## Controller, mapper, ports -/

/-- The controller port (R480). -/
structure Controller where
  strobe : Bool
  shift : Byte
  deriving DecidableEq, Repr

/-- The registers of MMC1 (R476). -/
structure Mmc1 where
  shift : BitVec 5
  /-- 0 to 4. -/
  count : Nat
  control : BitVec 5
  chr0 : BitVec 5
  chr1 : BitVec 5
  prg : BitVec 5
  deriving DecidableEq, Repr

/-- The mapper registers (R40, R472 to R476); the constructor is the cartridge's `MAPPER_ID`. -/
inductive Mapper where
  | nrom
  | mmc1 (m : Mmc1)
  | uxrom (bank : BitVec 3)
  | cnrom (chrBank : BitVec 2)
  | gxrom (chrBank prgBank : BitVec 3)
  deriving DecidableEq, Repr

/-- The video sink's side of R452: how many frames were handed off, and the last one. The model's own (log 19). -/
structure VideoPort where
  frames : Nat
  last : Framebuffer
  deriving DecidableEq, Repr

/-- The audio sink's side of R470: how many buffers were handed off, and the last one. The model's own (log 19). -/
structure AudioPort where
  flushes : Nat
  last : List Sample
  deriving DecidableEq, Repr

end Sys2Proof.Machine

namespace Sys2Proof.Machine

/-- The state of the machine. -/
structure State where
  cpu : Cpu
  /-- Internal RAM, 2048 bytes (R36). -/
  ram : Mem
  /-- CHR-RAM, 8192 bytes, when the cartridge has no CHR-ROM (R40). -/
  chrRam : Mem
  ppu : Ppu
  apu : Apu
  ctl : Controller
  mapper : Mapper
  /-- The NMI edge-detect latch (R32). -/
  nmiLinePrev : Bool
  /-- The queued-NMI flag (R33). -/
  nmiQueued : Bool
  /-- Ticks since reset (R34). -/
  cycles : Nat
  /-- The sticky fatal error (R35). -/
  fault : Option Fault
  /-- The configuration (R7), changed by no step. -/
  cfg : Cfg
  /-- The host's next button samples (log 5). -/
  input : List Byte
  /-- How many free values have been drawn (log 3). -/
  draws : Nat
  video : VideoPort
  audio : AudioPort
  deriving DecidableEq, Repr

/-! ## Reset values (R601) -/

/-- The CPU after reset, but for `pc` (R42). -/
def Cpu.reset : Cpu where
  a := 0x00
  x := 0x00
  y := 0x00
  sp := 0xFD
  pc := 0x0000
  n := false
  v := false
  d := false
  i := true
  z := false
  c := false

/-- The PPU after reset (R430). -/
def Ppu.reset : Ppu where
  ctrl := 0x00
  mask := 0x00
  nmiOccurred := false
  sprite0Hit := false
  spriteOverflow := false
  oamAddr := 0x00
  oam := []
  secOam := []
  sprite0Present := false
  spr := []
  spr0OnLine := false
  addrLatch := .first
  scrollLatch := .first
  vramAddr := 0
  scrollX := 0x00
  scrollY := 0x00
  readBuffer := 0x00
  nametable := []
  palette := []
  bg := ⟨0, 0, 0, 0⟩
  bgShift := ⟨0, 0, 0, 0⟩
  line := 0
  dot := 0
  framebuffer := []

def Envelope.reset : Envelope := ⟨false, false, 0, false, 0, 0⟩

def Pulse.reset : Pulse where
  enabled := false
  duty := 0
  env := .reset
  sweep := ⟨false, 0, false, 0, false, 0⟩
  period := 0
  timer := 0
  pos := 0
  length := 0

/-- The APU after reset (R459). -/
def Apu.reset : Apu where
  cyc := 0
  fs := 0
  fiveStep := false
  irqInhibit := false
  frameFlag := false
  pulse1 := .reset
  pulse2 := .reset
  triangle := ⟨false, false, 0, false, 0, 0, 0, 0, 0⟩
  noise := ⟨false, .reset, false, 0, 0, 1, 0⟩
  sacc := 0
  buffer := []

/-- `ctl.strobe` is R480's; `ctl.shift` is unspecified there: `$00`, DESIGN CHOICE (log 2). -/
def Controller.reset : Controller := ⟨false, 0x00⟩

/-- The mapper registers after reset, the mapper unchanged (R471, R476). -/
def Mapper.reset : Mapper → Mapper
  | .nrom => .nrom
  | .mmc1 _ => .mmc1 ⟨0, 0, 0x0C, 0, 0, 0⟩
  | .uxrom _ => .uxrom 0
  | .cnrom _ => .cnrom 0
  | .gxrom _ _ => .gxrom 0 0

/-- Every state component at its value of R601 but `pc`, for a machine with this cartridge. -/
def State.initial (cfg : Cfg) (mapper : Mapper) : State where
  cpu := .reset
  ram := []
  chrRam := []
  ppu := .reset
  apu := .reset
  ctl := .reset
  mapper := mapper.reset
  nmiLinePrev := false
  nmiQueued := false
  cycles := 0
  fault := none
  cfg := cfg
  input := []
  draws := 0
  video := ⟨0, []⟩
  audio := ⟨0, []⟩

/-- The machine right after reset with the blank NROM cartridge (log 1). Its vector bytes are `$00`, so `pc` is
`$0000`. `hostReset` (Machine/Ops.lean) is R600 for any cartridge. -/
def State.reset : State := State.initial .blank .nrom

end Sys2Proof.Machine
end

