-- ==== Sys2Proof/Machine/Memory.lean ====
section
/-! DEFINITION. The operations on sparse memories: a list of (key, value) pairs, keys strictly rising. -/

namespace Sys2Proof.Machine

/-- The value listed for a key. -/
def lookupKey {α : Type} (k : Nat) : List (Nat × α) → Option α
  | [] => none
  | (j, v) :: rest => if j = k then some v else lookupKey k rest

/-- The list with `v` at key `k`, in key order. -/
def insertKey {α : Type} (k : Nat) (v : α) : List (Nat × α) → List (Nat × α)
  | [] => [(k, v)]
  | (j, w) :: rest =>
    if k < j then (k, v) :: (j, w) :: rest
    else if k = j then (k, v) :: rest
    else (j, w) :: insertKey k v rest

/-- The list without key `k`. -/
def eraseKey {α : Type} (k : Nat) : List (Nat × α) → List (Nat × α)
  | [] => []
  | (j, w) :: rest => if j = k then rest else (j, w) :: eraseKey k rest

/-- One byte of a memory; an unlisted address reads `$00` (log 24). -/
def memGet (m : Mem) (k : Nat) : Byte := (lookupKey k m).getD 0

/-- The memory with byte `v` at `k`; `$00` is held by listing nothing. -/
def memSet (m : Mem) (k : Nat) (v : Byte) : Mem := if v = 0 then eraseKey k m else insertKey k v m

/-- Keys strictly rising. -/
abbrev Rising {α : Type} (m : List (Nat × α)) : Prop := m.Pairwise fun p q => p.1 < q.1

/-- The canonical form of a byte memory of `size` bytes: keys strictly rising and in range, no `$00` listed. -/
abbrev Memory.wf (size : Nat) (m : Mem) : Prop := Rising m ∧ ∀ p ∈ m, p.1 < size ∧ p.2 ≠ 0

end Sys2Proof.Machine
end

