-- ==== Sys2Proof/Machine/Apu.lean ====
section
/-! DEFINITION. The APU (60_exceptions.md R461 to R470, R490 to R495). Nothing of it is readable by the CPU. -/

namespace Sys2Proof.Machine

/-! ## Tables -/

/-- `LengthTable` (R491). -/
def lengthTable : List Nat :=
  [10, 254, 20, 2, 40, 4, 80, 6, 160, 8, 60, 10, 14, 12, 26, 14] ++
  [12, 16, 24, 18, 48, 20, 96, 22, 192, 24, 72, 26, 16, 28, 32, 30]

/-- `Duty` (R493): four sequences of eight steps. -/
def dutyTable : BitVec 2 → List Bool
  | 0 => [false, true, false, false, false, false, false, false]
  | 1 => [false, true, true, false, false, false, false, false]
  | 2 => [false, true, true, true, true, false, false, false]
  | _ => [true, false, false, true, true, true, true, true]

/-- `Tri` (R494): 15 down to 0, then 0 up to 15. -/
def triangleStep (pos : BitVec 5) : BitVec 4 :=
  if pos.toNat < 16 then BitVec.ofNat 4 (15 - pos.toNat) else BitVec.ofNat 4 (pos.toNat - 16)

/-- `NoisePeriod` (R495), in CPU cycles. -/
def noisePeriodTable : List Nat :=
  [4, 8, 16, 32, 64, 96, 128, 160, 202, 254, 380, 508, 762, 1016, 2034, 4068]

/-- What the noise timer reloads: it is clocked every second CPU cycle and counts to 0 inclusive, so that it expires
every `NoisePeriod` CPU cycles. DEDUCED (log 16). -/
def Noise.reload (n : Noise) : BitVec 12 :=
  BitVec.ofNat 12 (noisePeriodTable.getD n.periodIndex.toNat 4 / 2 - 1)

/-! ## Units clocked by the frame sequencer -/

/-- One quarter-frame clock of an envelope (R490). -/
def Envelope.clock (e : Envelope) : Envelope :=
  if e.start then { e with start := false, decay := 15, div := e.volume }
  else if e.div = 0 then
    { e with
      div := e.volume
      decay := if e.decay ≠ 0 then e.decay - 1 else if e.loop then 15 else e.decay }
  else { e with div := e.div - 1 }

/-- Channel volume (R490). -/
def Envelope.out (e : Envelope) : BitVec 4 := if e.constant then e.volume else e.decay

/-- One half-frame clock of a length counter (R491). -/
def clockLength (halt : Bool) (length : Byte) : Byte :=
  if !halt && length ≠ 0 then length - 1 else length

/-- The target period of a sweep, an integer (R492); `pulseOne` selects the one's-complement negation. -/
def Sweep.target (w : Sweep) (pulseOne : Bool) (period : BitVec 11) : Int :=
  let delta : Int := (period >>> w.shift.toNat).toNat
  if w.negate then
    if pulseOne then period.toNat - delta - 1 else period.toNat - delta
  else period.toNat + delta

/-- `mute` (R492). -/
def Sweep.mute (w : Sweep) (pulseOne : Bool) (period : BitVec 11) : Bool :=
  decide (w.target pulseOne period > 0x7FF) || decide (period.toNat < 8)

/-- One half-frame clock of a pulse channel's sweep (R492). -/
def Pulse.clockSweep (p : Pulse) (pulseOne : Bool) : Pulse :=
  let w := p.sweep
  let commit := w.div = 0 ∧ w.enable ∧ w.shift ≠ 0 ∧ w.mute pulseOne p.period = false
  { p with
    period := if commit then BitVec.ofInt 11 (w.target pulseOne p.period) else p.period
    sweep :=
      if w.div = 0 ∨ w.reload then { w with div := w.dividerPeriod, reload := false }
      else { w with div := w.div - 1 } }

/-- One quarter-frame clock of the linear counter (R494). -/
def Triangle.clockLinear (t : Triangle) : Triangle :=
  { t with
    linear := if t.reloadFlag then t.reloadValue else if t.linear ≠ 0 then t.linear - 1 else t.linear
    reloadFlag := t.reloadFlag && t.control }

/-- `Q`, the quarter-frame event (R461): envelopes and the linear counter. -/
def Apu.quarter (a : Apu) : Apu :=
  { a with
    pulse1.env := a.pulse1.env.clock
    pulse2.env := a.pulse2.env.clock
    noise.env := a.noise.env.clock
    triangle := a.triangle.clockLinear }

/-- `H`, the half-frame event (R461): length counters and sweeps. -/
def Apu.half (a : Apu) : Apu :=
  let p1 := a.pulse1.clockSweep true
  let p2 := a.pulse2.clockSweep false
  { a with
    pulse1 := { p1 with length := clockLength p1.env.loop p1.length }
    pulse2 := { p2 with length := clockLength p2.env.loop p2.length }
    triangle.length := clockLength a.triangle.control a.triangle.length
    noise.length := clockLength a.noise.env.loop a.noise.length }

/-- `FrameSequencerAdvance()` (R461). -/
def Apu.frameStep (a : Apu) : Apu :=
  let fs := a.fs + 1
  let b := { a with fs := fs }
  if fs = 7457 then b.quarter
  else if fs = 14913 then b.quarter.half
  else if fs = 22371 then b.quarter
  else if a.fiveStep then
    if fs = 37281 then { b.quarter.half with fs := 0 } else b
  else if fs = 29829 then
    { b.quarter.half with fs := 0, frameFlag := a.frameFlag || !a.irqInhibit }
  else b

/-! ## Timers and outputs -/

/-- One clock of a pulse timer (R493): at 0 it reloads and the duty position steps (log 15). -/
def Pulse.clockTimer (p : Pulse) : Pulse :=
  if p.timer = 0 then { p with timer := p.period, pos := p.pos + 1 } else { p with timer := p.timer - 1 }

/-- One clock of the triangle timer (R494). -/
def Triangle.clockTimer (t : Triangle) : Triangle :=
  if t.timer = 0 then
    { t with
      timer := t.period
      pos := if t.linear ≠ 0 ∧ t.length ≠ 0 then t.pos + 1 else t.pos }
  else { t with timer := t.timer - 1 }

/-- The LFSR's next value (R495). -/
def Noise.nextLfsr (n : Noise) : BitVec 15 :=
  let fb := xor (n.lfsr.getLsbD 0) (if n.short then n.lfsr.getLsbD 6 else n.lfsr.getLsbD 1)
  BitVec.ofBool fb ++ n.lfsr.extractLsb' 1 14

/-- One clock of the noise timer (R495). -/
def Noise.clockTimer (n : Noise) : Noise :=
  if n.timer = 0 then { n with timer := n.reload, lfsr := n.nextLfsr } else { n with timer := n.timer - 1 }

/-- A pulse channel's output (R493). -/
def Pulse.out (p : Pulse) (pulseOne : Bool) : BitVec 4 :=
  if (dutyTable p.duty).getD p.pos.toNat false && p.length != 0 && !p.sweep.mute pulseOne p.period then p.env.out
  else 0

/-- The triangle's output as it is mixed: `Tri[pos]` (R494), silent while the length counter is 0 (R469, R491;
log 13). -/
def Triangle.out (t : Triangle) : BitVec 4 := if t.length = 0 then 0 else triangleStep t.pos

/-- The noise channel's output (R495). -/
def Noise.out (n : Noise) : BitVec 4 := if !n.lfsr.getLsbD 0 && n.length != 0 then n.env.out else 0

/-- The arguments of `Mix` (R469). -/
def Apu.sample (a : Apu) : Sample := ⟨a.pulse1.out true, a.pulse2.out false, a.triangle.out, a.noise.out⟩

/-- The mixed value the audio sink sees (R469, log 13). -/
def Sample.value (x : Sample) : Float := Config.mix x.p1 x.p2 x.tri x.noise

/-- `ApuAdvance()` up to the sample timer (R461). -/
def Apu.clock (a : Apu) : Apu :=
  let b := { a with cyc := a.cyc + 1, triangle := a.triangle.clockTimer }
  let c :=
    if b.cyc % 2 = 0 then
      { b with pulse1 := b.pulse1.clockTimer, pulse2 := b.pulse2.clockTimer, noise := b.noise.clockTimer }
    else b
  c.frameStep

/-- `SampleTimerAdvance()` and `AudioHandOff()` (R469, R470): a full buffer goes to the audio port (log 13, 19). -/
def sampleTimerAdvance (s : State) : State :=
  let acc := s.apu.sacc + s.cfg.sampleRate
  if acc ≥ s.cfg.cpuClock then
    let buf := s.apu.buffer ++ [s.apu.sample]
    if buf.length = s.cfg.bufferCapacity then
      { s with
        apu.sacc := acc - s.cfg.cpuClock
        apu.buffer := []
        audio := ⟨s.audio.flushes + 1, buf⟩ }
    else { s with apu.sacc := acc - s.cfg.cpuClock, apu.buffer := buf }
  else { s with apu.sacc := acc }

/-- `ApuAdvance()` (R461), once per tick. -/
def apuAdvance (s : State) : State := sampleTimerAdvance { s with apu := s.apu.clock }

/-! ## Registers -/

/-- A length-counter load: a disabled channel loads nothing (R465), nor does a write of the high-timer byte `$4003`,
`$4007`, `$400B` while halted (R462, R463, D28). -/
def loadLength (enabled halt : Bool) (old v : Byte) : Byte :=
  if enabled && !halt then BitVec.ofNat 8 (lengthTable.getD (v >>> 3).toNat 0) else old

/-- The envelope bits of a register write (R462, R464): 5 loop, 4 constant, 3:0 volume. -/
def Envelope.write (e : Envelope) (v : Byte) : Envelope :=
  { e with loop := v.getLsbD 5, constant := v.getLsbD 4, volume := v.extractLsb' 0 4 }

/-- The four registers of a pulse channel (R462). -/
def Pulse.write (p : Pulse) (k : Nat) (v : Byte) : Pulse :=
  match k with
  | 0 => { p with duty := v.extractLsb' 6 2, env := p.env.write v }
  | 1 =>
    { p with
      sweep.enable := v.getLsbD 7
      sweep.dividerPeriod := v.extractLsb' 4 3
      sweep.negate := v.getLsbD 3
      sweep.shift := v.extractLsb' 0 3
      sweep.reload := true }
  | 2 => { p with period := p.period.extractLsb' 8 3 ++ v }
  | _ =>
    { p with
      period := v.extractLsb' 0 3 ++ p.period.setWidth 8
      length := loadLength p.enabled p.env.loop p.length v
      pos := 0
      env.start := true }

/-- The triangle's registers `$4008-$400B` (R463); `$4009` is unused. A `$400B` write leaves the sequence position: DESIGN
CHOICE (log 27). -/
def Triangle.write (t : Triangle) (k : Nat) (v : Byte) : Triangle :=
  match k with
  | 0 => { t with control := v.getLsbD 7, reloadValue := v.extractLsb' 0 7 }
  | 1 => t
  | 2 => { t with period := t.period.extractLsb' 8 3 ++ v }
  | _ =>
    { t with
      period := v.extractLsb' 0 3 ++ t.period.setWidth 8
      length := loadLength t.enabled t.control t.length v
      reloadFlag := true }

/-- The noise registers `$400C-$400F` (R464); `$400D` is unused. `$400F` is no high-timer byte: it loads the length whatever
the halt bit is (log 26). -/
def Noise.write (n : Noise) (k : Nat) (v : Byte) : Noise :=
  match k with
  | 0 => { n with env := n.env.write v }
  | 1 => n
  | 2 => { n with short := v.getLsbD 7, periodIndex := v.extractLsb' 0 4 }
  | _ =>
    { n with
      length := loadLength n.enabled false n.length v
      env.start := true }

/-- `$4015` (R465): a disabled channel's length counter becomes 0 at once. -/
def Apu.writeEnable (a : Apu) (v : Byte) : Apu :=
  { a with
    pulse1.enabled := v.getLsbD 0
    pulse1.length := if v.getLsbD 0 then a.pulse1.length else 0
    pulse2.enabled := v.getLsbD 1
    pulse2.length := if v.getLsbD 1 then a.pulse2.length else 0
    triangle.enabled := v.getLsbD 2
    triangle.length := if v.getLsbD 2 then a.triangle.length else 0
    noise.enabled := v.getLsbD 3
    noise.length := if v.getLsbD 3 then a.noise.length else 0 }

/-- `$4017` (R466, R467): mode and inhibit; 5-step mode clocks `Q` and `H` at once. -/
def Apu.writeFrame (a : Apu) (v : Byte) : Apu :=
  let b :=
    { a with
      fiveStep := v.getLsbD 7
      irqInhibit := v.getLsbD 6
      fs := 0
      frameFlag := a.frameFlag && !v.getLsbD 6 }
  if v.getLsbD 7 then b.quarter.half else b

/-- `ApuRegWrite(addr, val)` for `$4000-$4013`, `$4015`, `$4017` (20_memory.md R68; R462 to R468). -/
def Apu.write (a : Apu) (addr : Nat) (v : Byte) : Apu :=
  if addr < 0x4004 then { a with pulse1 := a.pulse1.write (addr - 0x4000) v }
  else if addr < 0x4008 then { a with pulse2 := a.pulse2.write (addr - 0x4004) v }
  else if addr < 0x400C then { a with triangle := a.triangle.write (addr - 0x4008) v }
  else if addr < 0x4010 then { a with noise := a.noise.write (addr - 0x400C) v }
  else if addr = 0x4015 then a.writeEnable v
  else if addr = 0x4017 then a.writeFrame v
  else a

end Sys2Proof.Machine
end

