-- ==== Sys2Proof/Syntax.lean ====
section
/-! DEFINITION. Instructions as the decoder gives them: one constructor for each instruction of
spec/opcode_table.json, its operand form an argument (log 9). Instruction bytes are gone: operands are values. -/

namespace Sys2Proof

/-- The thirteen addressing modes (30_encoding.md R110 to R120). -/
inductive Mode where
  | imp | acc | imm | zp | zpx | zpy | abs | abx | aby | izx | izy | ind | rel
  deriving DecidableEq, Repr

/-- A memory operand: a mode of R113 to R118 with its operand bytes (R109). -/
inductive Loc where
  /-- Zero page, `d8` (R113). -/
  | zp (d : Byte)
  /-- Zero page indexed by X, `d8,X` (R114). -/
  | zpx (d : Byte)
  /-- Zero page indexed by Y, `d8,Y` (R114). -/
  | zpy (d : Byte)
  /-- Absolute, `hi:lo` (R115). -/
  | abs (a : Word)
  /-- Absolute indexed by X (R116). -/
  | abx (a : Word)
  /-- Absolute indexed by Y (R116). -/
  | aby (a : Word)
  /-- Indexed indirect, `(d8,X)` (R117). -/
  | izx (d : Byte)
  /-- Indirect indexed, `(d8),Y` (R118). -/
  | izy (d : Byte)
  deriving DecidableEq, Repr

/-- The source of a read-kind instruction: an immediate byte (R112) or a memory byte. -/
inductive Src where
  | imm (v : Byte)
  | mem (l : Loc)
  deriving DecidableEq, Repr

/-- The target of a shift or rotate: the accumulator (R111) or a memory byte. -/
inductive Target where
  | acc
  | mem (l : Loc)
  deriving DecidableEq, Repr

def Loc.mode : Loc → Mode
  | .zp _ => .zp
  | .zpx _ => .zpx
  | .zpy _ => .zpy
  | .abs _ => .abs
  | .abx _ => .abx
  | .aby _ => .aby
  | .izx _ => .izx
  | .izy _ => .izy

def Src.mode : Src → Mode
  | .imm _ => .imm
  | .mem l => l.mode

def Target.mode : Target → Mode
  | .acc => .acc
  | .mem l => l.mode

/-- The instructions. -/
inductive Instr where
  -- 40_single_byte.md
  | clc | sec | cli | sei | clv | cld | sed
  | tax | tay | txa | tya | tsx | txs
  | pha | php | pla | plp
  | inx | iny | dex | dey
  /-- The documented NOP, `$EA` (R172). -/
  | nop
  -- 41_jumps_calls_returns.md
  /-- JMP absolute (R200). -/
  | jmp (target : Word)
  /-- JMP indirect (R201). -/
  | jmpInd (ptr : Word)
  /-- JSR (R202). The two operand bytes stand apart because the machine reads `hi` only after its pushes. -/
  | jsr (lo hi : Byte)
  | rts | rti | brk
  -- 42_branches.md: the displacement byte `d`
  | bpl (d : Byte) | bmi (d : Byte) | bvc (d : Byte) | bvs (d : Byte)
  | bcc (d : Byte) | bcs (d : Byte) | bne (d : Byte) | beq (d : Byte)
  -- 43_load_store.md
  | lda (o : Src) | ldx (o : Src) | ldy (o : Src)
  | sta (l : Loc) | stx (l : Loc) | sty (l : Loc)
  -- 44_arithmetic_compare.md
  | adc (o : Src) | sbc (o : Src) | cmp (o : Src) | cpx (o : Src) | cpy (o : Src)
  -- 45_logical_bit.md
  | and (o : Src) | ora (o : Src) | eor (o : Src)
  | bit (l : Loc)
  -- 46_shift_incdec.md
  | asl (t : Target) | lsr (t : Target) | rol (t : Target) | ror (t : Target)
  | inc (l : Loc) | dec (l : Loc)
  -- 47_unofficial.md: `op` is the opcode byte, since several bytes have one meaning
  /-- Unofficial NOP, implied (R330). -/
  | nopImp (op : Byte)
  /-- Unofficial NOP, immediate (R331). -/
  | nopImm (op d : Byte)
  /-- Unofficial NOP, zero page (R332). -/
  | nopZp (op d : Byte)
  /-- Unofficial NOP, zero page indexed by X (R333). -/
  | nopZpx (op d : Byte)
  /-- Unofficial NOP, absolute (R334). -/
  | nopAbs (a : Word)
  /-- Unofficial NOP, absolute indexed by X (R335). -/
  | nopAbx (op : Byte) (a : Word)
  | lax (l : Loc)
  /-- One of the 72 bytes with no instruction (R337). -/
  | undef (op : Byte)
  deriving DecidableEq, Repr

end Sys2Proof
end

