-- ==== Sys2Proof/WellFormed.lean ====
section
/-! DEFINITION. Which terms of `Instr` are instructions of the hardware: the operand forms each mnemonic has
(30_encoding.md R104 to R107) and the opcode bytes of the families that share one meaning (R124, R126). -/

namespace Sys2Proof

/-- The modes of a class 01 source operand (R104). -/
def modes01 : List Mode := [.imm, .zp, .zpx, .abs, .abx, .aby, .izx, .izy]

/-- The bytes of the implied unofficial NOPs (R124). -/
def nopImpBytes : List Byte := [0x1A, 0x3A, 0x5A, 0x7A, 0xDA, 0xFA]

/-- The bytes of the immediate unofficial NOPs (R124). -/
def nopImmBytes : List Byte := [0x80, 0x82, 0x89, 0xC2, 0xE2]

/-- The bytes of the zero-page unofficial NOPs (R124). -/
def nopZpBytes : List Byte := [0x04, 0x44, 0x64]

/-- The bytes of the zero-page,X unofficial NOPs (R124). -/
def nopZpxBytes : List Byte := [0x14, 0x34, 0x54, 0x74, 0xD4, 0xF4]

/-- The bytes of the absolute,X unofficial NOPs (R124). -/
def nopAbxBytes : List Byte := [0x1C, 0x3C, 0x5C, 0x7C, 0xDC, 0xFC]

/-- The 72 bytes with no instruction (R126). -/
def undefBytes : List Byte :=
  [0x02, 0x03, 0x07, 0x0B, 0x0F, 0x12, 0x13, 0x17, 0x1B, 0x1F, 0x22, 0x23, 0x27, 0x2B, 0x2F] ++
  [0x32, 0x33, 0x37, 0x3B, 0x3F, 0x42, 0x43, 0x47, 0x4B, 0x4F, 0x52, 0x53, 0x57, 0x5B, 0x5F] ++
  [0x62, 0x63, 0x67, 0x6B, 0x6F, 0x72, 0x73, 0x77, 0x7B, 0x7F, 0x83, 0x87, 0x8B, 0x8F, 0x92] ++
  [0x93, 0x97, 0x9B, 0x9C, 0x9E, 0x9F, 0xAB, 0xB2, 0xBB, 0xC3, 0xC7, 0xCB, 0xCF, 0xD2, 0xD3] ++
  [0xD7, 0xDB, 0xDF, 0xE3, 0xE7, 0xEB, 0xEF, 0xF2, 0xF3, 0xF7, 0xFB, 0xFF]

/-- The term is an instruction the opcode table has. -/
def Instr.wf : Instr → Bool
  | .clc | .sec | .cli | .sei | .clv | .cld | .sed => true
  | .tax | .tay | .txa | .tya | .tsx | .txs => true
  | .pha | .php | .pla | .plp => true
  | .inx | .iny | .dex | .dey | .nop => true
  | .jmp _ | .jmpInd _ | .jsr _ _ | .rts | .rti | .brk => true
  | .bpl _ | .bmi _ | .bvc _ | .bvs _ | .bcc _ | .bcs _ | .bne _ | .beq _ => true
  | .lda o | .adc o | .sbc o | .cmp o | .and o | .ora o | .eor o => modes01.contains o.mode
  | .ldx o => [Mode.imm, .zp, .zpy, .abs, .aby].contains o.mode
  | .ldy o => [Mode.imm, .zp, .zpx, .abs, .abx].contains o.mode
  | .sta l => [Mode.zp, .zpx, .abs, .abx, .aby, .izx, .izy].contains l.mode
  | .stx l => [Mode.zp, .zpy, .abs].contains l.mode
  | .sty l => [Mode.zp, .zpx, .abs].contains l.mode
  | .cpx o | .cpy o => [Mode.imm, .zp, .abs].contains o.mode
  | .bit l => [Mode.zp, .abs].contains l.mode
  | .asl t | .lsr t | .rol t | .ror t => [Mode.acc, .zp, .zpx, .abs, .abx].contains t.mode
  | .inc l | .dec l => [Mode.zp, .zpx, .abs, .abx].contains l.mode
  | .nopImp op => nopImpBytes.contains op
  | .nopImm op _ => nopImmBytes.contains op
  | .nopZp op _ => nopZpBytes.contains op
  | .nopZpx op _ => nopZpxBytes.contains op
  | .nopAbs _ => true
  | .nopAbx op _ => nopAbxBytes.contains op
  | .lax l => [Mode.zp, .zpy, .abs, .aby, .izx, .izy].contains l.mode
  | .undef op => undefBytes.contains op

end Sys2Proof
end

