-- ==== Sys2Proof/Decode.lean ====
section
/-! DEFINITION. Decoding instruction bytes (30_encoding.md R100 to R128), total on any bytes, then the encoder,
written from the grid rules R102 to R107 and not from the map R123 that the decoder follows. -/

namespace Sys2Proof

/-! ## Byte order and sign helpers -/

/-- `(hi << 8) | lo` (R109, 20_memory.md R74). -/
def mkWord (hi lo : Byte) : Word := hi ++ lo

/-- Bits 7:0 of a 16-bit value. -/
def loByte (w : Word) : Byte := w.setWidth 8

/-- Bits 15:8 of a 16-bit value. -/
def hiByte (w : Word) : Byte := w.extractLsb' 8 8

/-- `sext_8(v)` (00_scope.md R9), as a 16-bit two's-complement number. -/
def sext8 (v : Byte) : Word := v.signExtend 16

/-! ## The decoder -/

/-- Why a byte list is no instruction: it ends too early. Every opcode byte itself decodes (R123). -/
inductive DecodeError where
  /-- No byte at all. -/
  | empty
  /-- The operand bytes of the opcode are missing (R128). -/
  | truncated (op : Byte)
  deriving DecidableEq, Repr

/-- A row of the 256-entry dispatch (R100, R123): the format (R101) and what the operand bytes make; an undefined opcode
is written as a row of one byte (log 28). `f3late` is the
format F3 row of JSR, whose last byte the machine does not fetch before it executes (R202). -/
inductive Row where
  | f1 (i : Instr)
  | f2 (g : Byte → Instr)
  | f3 (g : Word → Instr)
  | f3late (g : Byte → Byte → Instr)

/-- Opcodes `$00` to `$0F` (R123). -/
def opcodePage0 : List Row :=
  [.f1 .brk,
   .f2 fun a => .ora (.mem (.izx a)),
   .f1 (.undef 0x02),
   .f1 (.undef 0x03),
   .f2 (.nopZp 0x04 ·),
   .f2 fun a => .ora (.mem (.zp a)),
   .f2 fun a => .asl (.mem (.zp a)),
   .f1 (.undef 0x07),
   .f1 .php,
   .f2 fun a => .ora (.imm a),
   .f1 (.asl .acc),
   .f1 (.undef 0x0B),
   .f3 (.nopAbs ·),
   .f3 fun a => .ora (.mem (.abs a)),
   .f3 fun a => .asl (.mem (.abs a)),
   .f1 (.undef 0x0F)]

/-- Opcodes `$10` to `$1F` (R123). -/
def opcodePage1 : List Row :=
  [.f2 (.bpl ·),
   .f2 fun a => .ora (.mem (.izy a)),
   .f1 (.undef 0x12),
   .f1 (.undef 0x13),
   .f2 (.nopZpx 0x14 ·),
   .f2 fun a => .ora (.mem (.zpx a)),
   .f2 fun a => .asl (.mem (.zpx a)),
   .f1 (.undef 0x17),
   .f1 .clc,
   .f3 fun a => .ora (.mem (.aby a)),
   .f1 (.nopImp 0x1A),
   .f1 (.undef 0x1B),
   .f3 (.nopAbx 0x1C ·),
   .f3 fun a => .ora (.mem (.abx a)),
   .f3 fun a => .asl (.mem (.abx a)),
   .f1 (.undef 0x1F)]

/-- Opcodes `$20` to `$2F` (R123). -/
def opcodePage2 : List Row :=
  [.f3late (.jsr · ·),
   .f2 fun a => .and (.mem (.izx a)),
   .f1 (.undef 0x22),
   .f1 (.undef 0x23),
   .f2 fun a => .bit (.zp a),
   .f2 fun a => .and (.mem (.zp a)),
   .f2 fun a => .rol (.mem (.zp a)),
   .f1 (.undef 0x27),
   .f1 .plp,
   .f2 fun a => .and (.imm a),
   .f1 (.rol .acc),
   .f1 (.undef 0x2B),
   .f3 fun a => .bit (.abs a),
   .f3 fun a => .and (.mem (.abs a)),
   .f3 fun a => .rol (.mem (.abs a)),
   .f1 (.undef 0x2F)]

/-- Opcodes `$30` to `$3F` (R123). -/
def opcodePage3 : List Row :=
  [.f2 (.bmi ·),
   .f2 fun a => .and (.mem (.izy a)),
   .f1 (.undef 0x32),
   .f1 (.undef 0x33),
   .f2 (.nopZpx 0x34 ·),
   .f2 fun a => .and (.mem (.zpx a)),
   .f2 fun a => .rol (.mem (.zpx a)),
   .f1 (.undef 0x37),
   .f1 .sec,
   .f3 fun a => .and (.mem (.aby a)),
   .f1 (.nopImp 0x3A),
   .f1 (.undef 0x3B),
   .f3 (.nopAbx 0x3C ·),
   .f3 fun a => .and (.mem (.abx a)),
   .f3 fun a => .rol (.mem (.abx a)),
   .f1 (.undef 0x3F)]

/-- Opcodes `$40` to `$4F` (R123). -/
def opcodePage4 : List Row :=
  [.f1 .rti,
   .f2 fun a => .eor (.mem (.izx a)),
   .f1 (.undef 0x42),
   .f1 (.undef 0x43),
   .f2 (.nopZp 0x44 ·),
   .f2 fun a => .eor (.mem (.zp a)),
   .f2 fun a => .lsr (.mem (.zp a)),
   .f1 (.undef 0x47),
   .f1 .pha,
   .f2 fun a => .eor (.imm a),
   .f1 (.lsr .acc),
   .f1 (.undef 0x4B),
   .f3 (.jmp ·),
   .f3 fun a => .eor (.mem (.abs a)),
   .f3 fun a => .lsr (.mem (.abs a)),
   .f1 (.undef 0x4F)]

/-- Opcodes `$50` to `$5F` (R123). -/
def opcodePage5 : List Row :=
  [.f2 (.bvc ·),
   .f2 fun a => .eor (.mem (.izy a)),
   .f1 (.undef 0x52),
   .f1 (.undef 0x53),
   .f2 (.nopZpx 0x54 ·),
   .f2 fun a => .eor (.mem (.zpx a)),
   .f2 fun a => .lsr (.mem (.zpx a)),
   .f1 (.undef 0x57),
   .f1 .cli,
   .f3 fun a => .eor (.mem (.aby a)),
   .f1 (.nopImp 0x5A),
   .f1 (.undef 0x5B),
   .f3 (.nopAbx 0x5C ·),
   .f3 fun a => .eor (.mem (.abx a)),
   .f3 fun a => .lsr (.mem (.abx a)),
   .f1 (.undef 0x5F)]

/-- Opcodes `$60` to `$6F` (R123). -/
def opcodePage6 : List Row :=
  [.f1 .rts,
   .f2 fun a => .adc (.mem (.izx a)),
   .f1 (.undef 0x62),
   .f1 (.undef 0x63),
   .f2 (.nopZp 0x64 ·),
   .f2 fun a => .adc (.mem (.zp a)),
   .f2 fun a => .ror (.mem (.zp a)),
   .f1 (.undef 0x67),
   .f1 .pla,
   .f2 fun a => .adc (.imm a),
   .f1 (.ror .acc),
   .f1 (.undef 0x6B),
   .f3 (.jmpInd ·),
   .f3 fun a => .adc (.mem (.abs a)),
   .f3 fun a => .ror (.mem (.abs a)),
   .f1 (.undef 0x6F)]

/-- Opcodes `$70` to `$7F` (R123). -/
def opcodePage7 : List Row :=
  [.f2 (.bvs ·),
   .f2 fun a => .adc (.mem (.izy a)),
   .f1 (.undef 0x72),
   .f1 (.undef 0x73),
   .f2 (.nopZpx 0x74 ·),
   .f2 fun a => .adc (.mem (.zpx a)),
   .f2 fun a => .ror (.mem (.zpx a)),
   .f1 (.undef 0x77),
   .f1 .sei,
   .f3 fun a => .adc (.mem (.aby a)),
   .f1 (.nopImp 0x7A),
   .f1 (.undef 0x7B),
   .f3 (.nopAbx 0x7C ·),
   .f3 fun a => .adc (.mem (.abx a)),
   .f3 fun a => .ror (.mem (.abx a)),
   .f1 (.undef 0x7F)]

/-- Opcodes `$80` to `$8F` (R123). -/
def opcodePage8 : List Row :=
  [.f2 (.nopImm 0x80 ·),
   .f2 fun a => .sta (.izx a),
   .f2 (.nopImm 0x82 ·),
   .f1 (.undef 0x83),
   .f2 fun a => .sty (.zp a),
   .f2 fun a => .sta (.zp a),
   .f2 fun a => .stx (.zp a),
   .f1 (.undef 0x87),
   .f1 .dey,
   .f2 (.nopImm 0x89 ·),
   .f1 .txa,
   .f1 (.undef 0x8B),
   .f3 fun a => .sty (.abs a),
   .f3 fun a => .sta (.abs a),
   .f3 fun a => .stx (.abs a),
   .f1 (.undef 0x8F)]

/-- Opcodes `$90` to `$9F` (R123). -/
def opcodePage9 : List Row :=
  [.f2 (.bcc ·),
   .f2 fun a => .sta (.izy a),
   .f1 (.undef 0x92),
   .f1 (.undef 0x93),
   .f2 fun a => .sty (.zpx a),
   .f2 fun a => .sta (.zpx a),
   .f2 fun a => .stx (.zpy a),
   .f1 (.undef 0x97),
   .f1 .tya,
   .f3 fun a => .sta (.aby a),
   .f1 .txs,
   .f1 (.undef 0x9B),
   .f1 (.undef 0x9C),
   .f3 fun a => .sta (.abx a),
   .f1 (.undef 0x9E),
   .f1 (.undef 0x9F)]

/-- Opcodes `$A0` to `$AF` (R123). -/
def opcodePageA : List Row :=
  [.f2 fun a => .ldy (.imm a),
   .f2 fun a => .lda (.mem (.izx a)),
   .f2 fun a => .ldx (.imm a),
   .f2 fun a => .lax (.izx a),
   .f2 fun a => .ldy (.mem (.zp a)),
   .f2 fun a => .lda (.mem (.zp a)),
   .f2 fun a => .ldx (.mem (.zp a)),
   .f2 fun a => .lax (.zp a),
   .f1 .tay,
   .f2 fun a => .lda (.imm a),
   .f1 .tax,
   .f1 (.undef 0xAB),
   .f3 fun a => .ldy (.mem (.abs a)),
   .f3 fun a => .lda (.mem (.abs a)),
   .f3 fun a => .ldx (.mem (.abs a)),
   .f3 fun a => .lax (.abs a)]

/-- Opcodes `$B0` to `$BF` (R123). -/
def opcodePageB : List Row :=
  [.f2 (.bcs ·),
   .f2 fun a => .lda (.mem (.izy a)),
   .f1 (.undef 0xB2),
   .f2 fun a => .lax (.izy a),
   .f2 fun a => .ldy (.mem (.zpx a)),
   .f2 fun a => .lda (.mem (.zpx a)),
   .f2 fun a => .ldx (.mem (.zpy a)),
   .f2 fun a => .lax (.zpy a),
   .f1 .clv,
   .f3 fun a => .lda (.mem (.aby a)),
   .f1 .tsx,
   .f1 (.undef 0xBB),
   .f3 fun a => .ldy (.mem (.abx a)),
   .f3 fun a => .lda (.mem (.abx a)),
   .f3 fun a => .ldx (.mem (.aby a)),
   .f3 fun a => .lax (.aby a)]

/-- Opcodes `$C0` to `$CF` (R123). -/
def opcodePageC : List Row :=
  [.f2 fun a => .cpy (.imm a),
   .f2 fun a => .cmp (.mem (.izx a)),
   .f2 (.nopImm 0xC2 ·),
   .f1 (.undef 0xC3),
   .f2 fun a => .cpy (.mem (.zp a)),
   .f2 fun a => .cmp (.mem (.zp a)),
   .f2 fun a => .dec (.zp a),
   .f1 (.undef 0xC7),
   .f1 .iny,
   .f2 fun a => .cmp (.imm a),
   .f1 .dex,
   .f1 (.undef 0xCB),
   .f3 fun a => .cpy (.mem (.abs a)),
   .f3 fun a => .cmp (.mem (.abs a)),
   .f3 fun a => .dec (.abs a),
   .f1 (.undef 0xCF)]

/-- Opcodes `$D0` to `$DF` (R123). -/
def opcodePageD : List Row :=
  [.f2 (.bne ·),
   .f2 fun a => .cmp (.mem (.izy a)),
   .f1 (.undef 0xD2),
   .f1 (.undef 0xD3),
   .f2 (.nopZpx 0xD4 ·),
   .f2 fun a => .cmp (.mem (.zpx a)),
   .f2 fun a => .dec (.zpx a),
   .f1 (.undef 0xD7),
   .f1 .cld,
   .f3 fun a => .cmp (.mem (.aby a)),
   .f1 (.nopImp 0xDA),
   .f1 (.undef 0xDB),
   .f3 (.nopAbx 0xDC ·),
   .f3 fun a => .cmp (.mem (.abx a)),
   .f3 fun a => .dec (.abx a),
   .f1 (.undef 0xDF)]

/-- Opcodes `$E0` to `$EF` (R123). -/
def opcodePageE : List Row :=
  [.f2 fun a => .cpx (.imm a),
   .f2 fun a => .sbc (.mem (.izx a)),
   .f2 (.nopImm 0xE2 ·),
   .f1 (.undef 0xE3),
   .f2 fun a => .cpx (.mem (.zp a)),
   .f2 fun a => .sbc (.mem (.zp a)),
   .f2 fun a => .inc (.zp a),
   .f1 (.undef 0xE7),
   .f1 .inx,
   .f2 fun a => .sbc (.imm a),
   .f1 .nop,
   .f1 (.undef 0xEB),
   .f3 fun a => .cpx (.mem (.abs a)),
   .f3 fun a => .sbc (.mem (.abs a)),
   .f3 fun a => .inc (.abs a),
   .f1 (.undef 0xEF)]

/-- Opcodes `$F0` to `$FF` (R123). -/
def opcodePageF : List Row :=
  [.f2 (.beq ·),
   .f2 fun a => .sbc (.mem (.izy a)),
   .f1 (.undef 0xF2),
   .f1 (.undef 0xF3),
   .f2 (.nopZpx 0xF4 ·),
   .f2 fun a => .sbc (.mem (.zpx a)),
   .f2 fun a => .inc (.zpx a),
   .f1 (.undef 0xF7),
   .f1 .sed,
   .f3 fun a => .sbc (.mem (.aby a)),
   .f1 (.nopImp 0xFA),
   .f1 (.undef 0xFB),
   .f3 (.nopAbx 0xFC ·),
   .f3 fun a => .sbc (.mem (.abx a)),
   .f3 fun a => .inc (.abx a),
   .f1 (.undef 0xFF)]

/-- The sixteen rows of one high nibble. -/
def opcodePage : Nat → List Row
  | 0 => opcodePage0
  | 1 => opcodePage1
  | 2 => opcodePage2
  | 3 => opcodePage3
  | 4 => opcodePage4
  | 5 => opcodePage5
  | 6 => opcodePage6
  | 7 => opcodePage7
  | 8 => opcodePage8
  | 9 => opcodePage9
  | 10 => opcodePageA
  | 11 => opcodePageB
  | 12 => opcodePageC
  | 13 => opcodePageD
  | 14 => opcodePageE
  | 15 => opcodePageF
  | _ => []

/-- The dispatch of R100: a row for every opcode byte. -/
def opcodeRow (op : Byte) : Row :=
  (opcodePage (op.toNat / 16)).getD (op.toNat % 16) (.f1 (.undef op))

/-- The length of an instruction in bytes, from its row's format (R101, R128). R128 gives an undefined opcode no length:
that its row is one byte long is the model's choice (log 28). -/
def Row.len : Row → Nat
  | .f1 _ => 1
  | .f2 _ => 2
  | .f3 _ => 3
  | .f3late _ => 3

/-- The instruction of a row with the two bytes that follow the opcode (R109); a byte past the format is not used. -/
def Row.instr : Row → Byte → Byte → Instr
  | .f1 i, _, _ => i
  | .f2 g, b1, _ => g b1
  | .f3 g, b1, b2 => g (mkWord b2 b1)
  | .f3late g, b1, b2 => g b1 b2

/-- Decoding the bytes of an instruction in ascending address order: the instruction and the bytes after it. At an undefined
opcode R128 leaves a walker of bytes its own policy: here the bytes after it are those from the next one on, the model's
choice (log 28). -/
def decode : List Byte → Except DecodeError (Instr × List Byte)
  | [] => .error .empty
  | op :: rest =>
    match opcodeRow op, rest with
    | .f1 i, r => .ok (i, r)
    | .f2 g, b1 :: r => .ok (g b1, r)
    | .f3 g, b1 :: b2 :: r => .ok (g (mkWord b2 b1), r)
    | .f3late g, b1 :: b2 :: r => .ok (g b1 b2, r)
    | _, _ => .error (.truncated op)

/-- Byte `k` of an instruction word numbered as spec/opcode_table.json numbers it (bit 0 is bit 0 of the first byte). -/
def tableByte (w k : Nat) : Byte := BitVec.ofNat 8 (w / 256 ^ k)

/-- The bytes of a table word of `nbits` bits, zeros above, up to the longest instruction (3 bytes). -/
def tableBytes (nbits w : Nat) : List Byte :=
  let v := w % 2 ^ nbits
  [tableByte v 0, tableByte v 1, tableByte v 2]

/-- The instruction the decoder reads from a table word. -/
def decodeTableWord (nbits w : Nat) : Option Instr :=
  match decode (tableBytes nbits w) with
  | .ok (i, _) => some i
  | .error _ => none

/-! ## The encoder -/

/-- The grid byte `aaabbbcc` (R102). -/
def gridByte (aaa bbb : BitVec 3) (cc : BitVec 2) : Byte := aaa ++ bbb ++ cc

/-- `bbb` of a mode in class `cc = 01` (R104). -/
def bbb01 : Mode → Option (BitVec 3)
  | .izx => some 0
  | .zp => some 1
  | .imm => some 2
  | .abs => some 3
  | .izy => some 4
  | .zpx => some 5
  | .aby => some 6
  | .abx => some 7
  | _ => none

/-- `bbb` of a mode in class `cc = 10`, but for LDX and STX (R105). -/
def bbb10 : Mode → Option (BitVec 3)
  | .zp => some 1
  | .acc => some 2
  | .abs => some 3
  | .zpx => some 5
  | .abx => some 7
  | _ => none

/-- `bbb` of a mode of LDX and STX, indexed by Y (R105). -/
def bbb10y : Mode → Option (BitVec 3)
  | .imm => some 0
  | .zp => some 1
  | .abs => some 3
  | .zpy => some 5
  | .aby => some 7
  | _ => none

/-- `bbb` of a mode in class `cc = 00` (R106). -/
def bbb00 : Mode → Option (BitVec 3)
  | .imm => some 0
  | .zp => some 1
  | .abs => some 3
  | .zpx => some 5
  | .abx => some 7
  | _ => none

/-- `bbb` of a mode of LAX, `cc = 11` (R125). -/
def bbb11 : Mode → Option (BitVec 3)
  | .izx => some 0
  | .zp => some 1
  | .abs => some 3
  | .izy => some 4
  | .zpy => some 5
  | .aby => some 7
  | _ => none

def op01 (aaa : BitVec 3) (m : Mode) : Option Byte := (bbb01 m).map (gridByte aaa · 1)
def op10 (aaa : BitVec 3) (m : Mode) : Option Byte := (bbb10 m).map (gridByte aaa · 2)
def op10y (aaa : BitVec 3) (m : Mode) : Option Byte := (bbb10y m).map (gridByte aaa · 2)
def op00 (aaa : BitVec 3) (m : Mode) : Option Byte := (bbb00 m).map (gridByte aaa · 0)

/-- A branch byte `xxy10000` (R103). -/
def branchByte (xx : BitVec 2) (y : BitVec 1) : Byte := xx ++ y ++ 16#5

/-- The opcode byte of an instruction; none for a form the grid has no place for. -/
def opcodeOf : Instr → Option Byte
  -- R107
  | .brk => some 0x00
  | .jsr _ _ => some 0x20
  | .rti => some 0x40
  | .rts => some 0x60
  | .php => some 0x08
  | .plp => some 0x28
  | .pha => some 0x48
  | .pla => some 0x68
  | .dey => some 0x88
  | .tay => some 0xA8
  | .iny => some 0xC8
  | .inx => some 0xE8
  | .clc => some 0x18
  | .sec => some 0x38
  | .cli => some 0x58
  | .sei => some 0x78
  | .tya => some 0x98
  | .clv => some 0xB8
  | .cld => some 0xD8
  | .sed => some 0xF8
  | .txa => some 0x8A
  | .txs => some 0x9A
  | .tax => some 0xAA
  | .tsx => some 0xBA
  | .dex => some 0xCA
  | .nop => some 0xEA
  -- R103
  | .bpl _ => some (branchByte 0 0)
  | .bmi _ => some (branchByte 0 1)
  | .bvc _ => some (branchByte 1 0)
  | .bvs _ => some (branchByte 1 1)
  | .bcc _ => some (branchByte 2 0)
  | .bcs _ => some (branchByte 2 1)
  | .bne _ => some (branchByte 3 0)
  | .beq _ => some (branchByte 3 1)
  -- R104
  | .ora o => op01 0 o.mode
  | .and o => op01 1 o.mode
  | .eor o => op01 2 o.mode
  | .adc o => op01 3 o.mode
  | .sta l => op01 4 l.mode
  | .lda o => op01 5 o.mode
  | .cmp o => op01 6 o.mode
  | .sbc o => op01 7 o.mode
  -- R105
  | .asl t => op10 0 t.mode
  | .rol t => op10 1 t.mode
  | .lsr t => op10 2 t.mode
  | .ror t => op10 3 t.mode
  | .stx l => op10y 4 l.mode
  | .ldx o => op10y 5 o.mode
  | .dec l => op10 6 l.mode
  | .inc l => op10 7 l.mode
  -- R106
  | .bit l => op00 1 l.mode
  | .jmp _ => op00 2 .abs
  | .jmpInd _ => op00 3 .abs
  | .sty l => op00 4 l.mode
  | .ldy o => op00 5 o.mode
  | .cpy o => op00 6 o.mode
  | .cpx o => op00 7 o.mode
  -- R124 to R126
  | .nopImp op => some op
  | .nopImm op _ => some op
  | .nopZp op _ => some op
  | .nopZpx op _ => some op
  | .nopAbs _ => op00 0 .abs
  | .nopAbx op _ => some op
  | .lax l => (bbb11 l.mode).map (gridByte 5 · 3)
  | .undef op => some op

/-- The two operand bytes of a 16-bit operand, low byte first (R109). -/
def wordBytes (a : Word) : List Byte := [loByte a, hiByte a]

def Loc.bytes : Loc → List Byte
  | .zp d | .zpx d | .zpy d | .izx d | .izy d => [d]
  | .abs a | .abx a | .aby a => wordBytes a

def Src.bytes : Src → List Byte
  | .imm v => [v]
  | .mem l => l.bytes

def Target.bytes : Target → List Byte
  | .acc => []
  | .mem l => l.bytes

/-- The bytes after the opcode (R101, R109). -/
def operandBytes : Instr → List Byte
  | .clc | .sec | .cli | .sei | .clv | .cld | .sed => []
  | .tax | .tay | .txa | .tya | .tsx | .txs => []
  | .pha | .php | .pla | .plp => []
  | .inx | .iny | .dex | .dey | .nop => []
  | .jmp a | .jmpInd a => wordBytes a
  | .jsr lo hi => [lo, hi]
  | .rts | .rti | .brk => []
  | .bpl d | .bmi d | .bvc d | .bvs d | .bcc d | .bcs d | .bne d | .beq d => [d]
  | .lda o | .ldx o | .ldy o => o.bytes
  | .sta l | .stx l | .sty l => l.bytes
  | .adc o | .sbc o | .cmp o | .cpx o | .cpy o => o.bytes
  | .and o | .ora o | .eor o => o.bytes
  | .bit l => l.bytes
  | .asl t | .lsr t | .rol t | .ror t => t.bytes
  | .inc l | .dec l => l.bytes
  | .nopImp _ => []
  | .nopImm _ d | .nopZp _ d | .nopZpx _ d => [d]
  | .nopAbs a | .nopAbx _ a => wordBytes a
  | .lax l => l.bytes
  | .undef _ => []

/-- The bytes of a well-formed instruction, the opcode first; a form with no opcode byte has none. -/
def encode (i : Instr) : List Byte :=
  match opcodeOf i with
  | some op => op :: operandBytes i
  | none => []

end Sys2Proof
end

