-- ==== Sys2Proof/Machine/Mapper.lean ====
section
/-! DEFINITION. The cartridge behind the bus: the five mappers (60_exceptions.md R471 to R476). -/

namespace Sys2Proof.Machine

/-- A byte the spec leaves open (93_implementation_defined.md "any value"): a new free value at each draw (log 3). -/
def drawByte (s : State) : Byte × State := (Config.freeByte s.draws, { s with draws := s.draws + 1 })

/-- Byte `k` of the PRG array. Reducing `k` changes nothing for an index R472 to R476 form on a cartridge whose bank
count the rule allows (log 18). -/
def prgByte (cfg : Cfg) (k : Nat) : Byte := memGet cfg.prg (k % (16384 * cfg.prgBanks))

/-- Byte `k` of the CHR array, likewise. -/
def chrByte (cfg : Cfg) (k : Nat) : Byte := memGet cfg.chr (k % (8192 * cfg.chrBanks))

/-- The PRG index MMC1 makes of an address `a` of `$8000-$FFFF` (R476). -/
def Mmc1.prgIndex (m : Mmc1) (cfg : Cfg) (a : Nat) : Nat :=
  let bank := (m.prg.extractLsb' 0 4).toNat % cfg.prgBanks
  let last := cfg.prgBanks - 1
  match (m.control.extractLsb' 2 2).toNat with
  | 2 => if a < 0xC000 then a % 0x4000 else bank * 16384 + a % 0x4000
  | 3 => if a < 0xC000 then bank * 16384 + a % 0x4000 else last * 16384 + a % 0x4000
  | _ => (m.prg.extractLsb' 1 3).toNat % (cfg.prgBanks / 2) * 32768 + (a - 0x8000)

/-- The PRG index of an address `a` of `$8000-$FFFF` (R472 to R476, bank numbers modulo the banks present: R471). -/
def Mapper.prgIndex (m : Mapper) (cfg : Cfg) (a : Nat) : Nat :=
  match m with
  | .nrom => (a - 0x8000) % (16384 * cfg.prgBanks)
  | .cnrom _ => (a - 0x8000) % (16384 * cfg.prgBanks)
  | .uxrom bank =>
    if a < 0xC000 then bank.toNat % cfg.prgBanks * 16384 + a % 0x4000
    else (cfg.prgBanks - 1) * 16384 + a % 0x4000
  | .gxrom _ prgBank => prgBank.toNat % (cfg.prgBanks / 2) * 32768 + (a - 0x8000)
  | .mmc1 m => m.prgIndex cfg a

/-- The PRG byte visible at an address of `$8000-$FFFF`. -/
def prgRead (s : State) (a : Word) : Byte := prgByte s.cfg (s.mapper.prgIndex s.cfg a.toNat)

/-- `mapper.read` for `$4020-$FFFF` (R72, R471): below `$8000` any value. -/
def mapperRead (a : Word) (s : State) : Byte × State :=
  if a.toNat < 0x8000 then drawByte s else (prgRead s a, s)

/-- One MMC1 write (R476): a set bit 7 clears the shift register, else bit 0 is shifted in, and the fifth write
commits to the register its address selects. -/
def Mmc1.write (m : Mmc1) (a : Word) (v : Byte) : Mmc1 :=
  if v.getLsbD 7 then { m with shift := 0, count := 0 }
  else
    let sh := m.shift ||| ((v.setWidth 5 &&& 1#5) <<< m.count)
    if m.count + 1 = 5 then
      match (a.extractLsb' 13 2).toNat with
      | 0 => { m with control := sh, shift := 0, count := 0 }
      | 1 => { m with chr0 := sh, shift := 0, count := 0 }
      | 2 => { m with chr1 := sh, shift := 0, count := 0 }
      | _ => { m with prg := sh, shift := 0, count := 0 }
    else { m with shift := sh, count := m.count + 1 }

/-- A write to `$8000-$FFFF` (R472 to R476). -/
def Mapper.write (m : Mapper) (a : Word) (v : Byte) : Mapper :=
  match m with
  | .nrom => .nrom
  | .uxrom _ => .uxrom (v.extractLsb' 0 3)
  | .cnrom _ => .cnrom (v.extractLsb' 0 2)
  | .gxrom _ _ => .gxrom (v.extractLsb' 0 3) (v.extractLsb' 4 3)
  | .mmc1 m => .mmc1 (m.write a v)

/-- `mapper.write` for `$4020-$FFFF` (R72, R471): below `$8000` no effect. -/
def mapperWrite (a : Word) (v : Byte) (s : State) : State :=
  if a.toNat < 0x8000 then s else { s with mapper := s.mapper.write a v }

/-- The CHR index MMC1 makes of a pattern-table address (R476). -/
def Mmc1.chrIndex (m : Mmc1) (cfg : Cfg) (a : Nat) : Nat :=
  if m.control.getLsbD 4 then
    if a < 0x1000 then m.chr0.toNat % (2 * cfg.chrBanks) * 4096 + a % 0x1000
    else m.chr1.toNat % (2 * cfg.chrBanks) * 4096 + a % 0x1000
  else (m.chr0.extractLsb' 1 4).toNat % cfg.chrBanks * 8192 + a

/-- The CHR index of a pattern-table address `a` of `$0000-$1FFF` (R472 to R476). -/
def Mapper.chrIndex (m : Mapper) (cfg : Cfg) (a : Nat) : Nat :=
  match m with
  | .nrom => a
  | .uxrom _ => a
  | .cnrom chrBank => chrBank.toNat % cfg.chrBanks * 8192 + a
  | .gxrom chrBank _ => chrBank.toNat % cfg.chrBanks * 8192 + a
  | .mmc1 m => m.chrIndex cfg a

/-- `mapper.read_chr` for `$0000-$1FFF`: CHR-RAM, unbanked, when the cartridge has no CHR banks (R471). -/
def chrRead (s : State) (a : Nat) : Byte :=
  if s.cfg.chrBanks = 0 then memGet s.chrRam a else chrByte s.cfg (s.mapper.chrIndex s.cfg a)

/-- A PPU write to `$0000-$1FFF`: CHR-RAM takes it, CHR-ROM does not (R439, R471). -/
def chrWrite (a : Nat) (v : Byte) (s : State) : State :=
  if s.cfg.chrBanks = 0 then { s with chrRam := memSet s.chrRam a v } else s

/-- The physical nametable of logical table `t` (R439 `NtIndex`); MMC1 takes the mode from its control register. -/
def ntIndex (s : State) (t : Nat) : Nat :=
  match s.mapper with
  | .mmc1 m =>
    match (m.control.extractLsb' 0 2).toNat with
    | 0 => 0
    | 1 => 1
    | 2 => t % 2
    | _ => t / 2
  | _ =>
    match s.cfg.mirroring with
    | .vertical => t % 2
    | .horizontal => t / 2

end Sys2Proof.Machine
end

