-- ==== Sys2Proof/Machine/Ppu.lean ====
section
/-! DEFINITION. The PPU as the CPU reaches it: the NMI edge logic, the PPU space, the eight registers
(60_exceptions.md R431 to R441). -/

namespace Sys2Proof.Machine

/-! ## NMI edge logic -/

/-- The derived NMI line: NMI enabled and vblank flag set (R411, R441). -/
def Ppu.nmiLine (p : Ppu) : Bool := p.ctrl.getLsbD 7 && p.nmiOccurred

/-- `NmiLineEval()` (R441): a rise of the line queues an NMI; nothing here clears the queue. -/
def nmiLineEval (s : State) : State :=
  { s with
    nmiQueued := s.nmiQueued || (s.ppu.nmiLine && !s.nmiLinePrev)
    nmiLinePrev := s.ppu.nmiLine }

/-! ## The PPU space -/

/-- The nametable key of an address of `$2000-$3EFF` (R439). -/
def ntKey (s : State) (a : Nat) : Nat := 1024 * ntIndex s (a / 1024 % 4) + a % 1024

/-- `PalIndex(a)` (R439): entries `$10 $14 $18 $1C` mirror `$00 $04 $08 $0C`. -/
def palIndex (a : Nat) : Nat :=
  let i := a % 32
  if i % 4 = 0 ∧ 16 ≤ i then i - 16 else i

/-- `PpuRead(a)` (R439). -/
def ppuRead (s : State) (a : VAddr) : Byte :=
  let k := a.toNat
  if k < 0x2000 then chrRead s k
  else if k < 0x3F00 then memGet s.ppu.nametable (ntKey s k)
  else memGet s.ppu.palette (palIndex k)

/-- `PpuWrite(a, v)` (R439). -/
def ppuWrite (a : VAddr) (v : Byte) (s : State) : State :=
  let k := a.toNat
  if k < 0x2000 then chrWrite k v s
  else if k < 0x3F00 then { s with ppu.nametable := memSet s.ppu.nametable (ntKey s k) v }
  else { s with ppu.palette := memSet s.ppu.palette (palIndex k) (v &&& 0x3F) }

/-! ## The registers -/

/-- The register at each index of `$2000-$2007` (20_memory.md R67). -/
inductive PpuReg where
  | ctrl | mask | status | oamAddr | oamData | scroll | addr | data
  deriving DecidableEq, Repr

/-- Index to register (R67); the index is `addr & 7`. -/
def ppuRegOf (k : Nat) : PpuReg :=
  match k % 8 with
  | 0 => .ctrl
  | 1 => .mask
  | 2 => .status
  | 3 => .oamAddr
  | 4 => .oamData
  | 5 => .scroll
  | 6 => .addr
  | _ => .data

/-- The step of `ppu.vram_addr` after a PPUDATA access (R438). -/
def Ppu.vramStep (p : Ppu) : VAddr := if p.ctrl.getLsbD 2 then 32 else 1

/-- `PpuStatusRead()` (R433). Bits 4:0 and bit 5 of the value are free (U7, U8): one free byte gives all six, and
`ppu.sprite_overflow` becomes the bit 5 that was shown (log 3, 4). -/
def ppuStatusRead (s : State) : Byte × State :=
  let free := drawByte s
  let v : Byte := BitVec.ofBool s.ppu.nmiOccurred ++ BitVec.ofBool s.ppu.sprite0Hit ++ free.1.setWidth 6
  (v, nmiLineEval { free.2 with
        ppu.nmiOccurred := false
        ppu.spriteOverflow := free.1.getLsbD 5
        ppu.addrLatch := .first
        ppu.scrollLatch := .first })

/-- `PpuDataRead()` (R438). -/
def ppuDataRead (s : State) : Byte × State :=
  let a := s.ppu.vramAddr
  let s' := { s with ppu.vramAddr := a + s.ppu.vramStep }
  if a.toNat < 0x3F00 then (s.ppu.readBuffer, { s' with ppu.readBuffer := ppuRead s a })
  else (ppuRead s a, { s' with ppu.readBuffer := ppuRead s (a - 0x1000) })

/-- `PpuDataWrite(val)` (R438). -/
def ppuDataWrite (v : Byte) (s : State) : State :=
  let s' := ppuWrite s.ppu.vramAddr v s
  { s' with ppu.vramAddr := s.ppu.vramAddr + s.ppu.vramStep }

/-- OAMDATA write (R435). -/
def oamDataWrite (v : Byte) (s : State) : State :=
  { s with
    ppu.oam := memSet s.ppu.oam s.ppu.oamAddr.toNat v
    ppu.oamAddr := s.ppu.oamAddr + 1 }

/-- PPUSCROLL write (R436): X first, Y second, with a latch of its own (log 10). -/
def ppuScrollWrite (v : Byte) (s : State) : State :=
  match s.ppu.scrollLatch with
  | .first => { s with ppu.scrollX := v, ppu.scrollLatch := .second }
  | .second => { s with ppu.scrollY := v, ppu.scrollLatch := .first }

/-- PPUADDR write (R437): high byte first, with a latch of its own (log 10). -/
def ppuAddrWrite (v : Byte) (s : State) : State :=
  match s.ppu.addrLatch with
  | .first =>
    { s with
      ppu.vramAddr := v.setWidth 6 ++ s.ppu.vramAddr.setWidth 8
      ppu.addrLatch := .second }
  | .second =>
    { s with
      ppu.vramAddr := s.ppu.vramAddr.extractLsb' 8 6 ++ v
      ppu.addrLatch := .first }

/-- `PpuRegRead` (R67, R431 to R438): a write-only register reads any value (D21). -/
def ppuRegRead (r : PpuReg) (s : State) : Byte × State :=
  match r with
  | .ctrl => drawByte s
  | .mask => drawByte s
  | .status => ppuStatusRead s
  | .oamAddr => drawByte s
  | .oamData => (memGet s.ppu.oam s.ppu.oamAddr.toNat, s)
  | .scroll => drawByte s
  | .addr => drawByte s
  | .data => ppuDataRead s

/-- `PpuRegWrite` (R67, R431 to R438). -/
def ppuRegWrite (r : PpuReg) (v : Byte) (s : State) : State :=
  match r with
  | .ctrl => nmiLineEval { s with ppu.ctrl := v }
  | .mask => { s with ppu.mask := v }
  | .status => s
  | .oamAddr => { s with ppu.oamAddr := v }
  | .oamData => oamDataWrite v s
  | .scroll => ppuScrollWrite v s
  | .addr => ppuAddrWrite v s
  | .data => ppuDataWrite v s

end Sys2Proof.Machine
end

