-- ==== Sys2Proof/Machine/Render.lean ====
section
/-! DEFINITION. The PPU's advance by one dot (60_exceptions.md R440) and what rendering does at a dot
(R442 to R447), with the functional pixel definition of R442. -/

namespace Sys2Proof.Machine

/-- `rendering = mask[3] OR mask[4]` (R432). -/
def Ppu.rendering (p : Ppu) : Bool := p.mask.getLsbD 3 || p.mask.getLsbD 4

/-- A pixel's two pattern bits: bit `7 - c` of each plane (R442, R445). -/
def planeBits (low high : Byte) (c : Nat) : BitVec 2 :=
  BitVec.ofBool (high.getLsbD (7 - c)) ++ BitVec.ofBool (low.getLsbD (7 - c))

/-! ## Background -/

/-- `wx` of R442 for screen column `x`. -/
def Ppu.bgX (p : Ppu) (x : Nat) : Nat := x + p.scrollX.toNat + 256 * (p.ctrl.getLsbD 0).toNat

/-- `wy` of R442 for screen row `y`. -/
def Ppu.bgY (p : Ppu) (y : Nat) : Nat := y + p.scrollY.toNat + 240 * (p.ctrl.getLsbD 1).toNat

/-- The four bytes R442 fetches for the background pixel at `(x, y)`. -/
def bgFetch (s : State) (x y : Nat) : BgLatches :=
  let wx := s.ppu.bgX x
  let wy := s.ppu.bgY y
  let cx := wx % 256
  let cy := wy % 240
  let base := 0x2000 + 0x400 * (wx / 256 % 2 + 2 * (wy / 240 % 2))
  let tile := ppuRead s (BitVec.ofNat 14 (base + cy / 8 * 32 + cx / 8))
  let attr := ppuRead s (BitVec.ofNat 14 (base + 0x3C0 + cy / 32 * 8 + cx / 32))
  let row := 0x1000 * (s.ppu.ctrl.getLsbD 4).toNat + tile.toNat * 16 + cy % 8
  { tile := tile
    attr := attr
    low := ppuRead s (BitVec.ofNat 14 row)
    high := ppuRead s (BitVec.ofNat 14 (row + 8)) }

/-- The background is shown at column `x` (R432, R442). -/
def Ppu.bgShown (p : Ppu) (x : Nat) : Bool := p.mask.getLsbD 3 && (8 ≤ x || p.mask.getLsbD 1)

/-- `pal` of R442 from the attribute byte. -/
def Ppu.bgPal (p : Ppu) (l : BgLatches) (x y : Nat) : BitVec 2 :=
  l.attr.extractLsb' (p.bgY y % 240 / 16 % 2 * 4 + p.bgX x % 256 / 16 % 2 * 2) 2

/-- Eight copies of a bit: the eight pixels of a tile share their palette select. -/
def eightOf (b : Bool) : Byte := if b then 0xFF else 0x00

/-- The shift registers at column `x`, loaded from the fetched bytes with the earlier columns of the tile shifted out
(R442: one pixel a dot; log 11). -/
def Ppu.bgLoad (p : Ppu) (l : BgLatches) (x y : Nat) : BgShifters :=
  let pal := p.bgPal l x y
  let c := p.bgX x % 256 % 8
  { patternLow := l.low <<< c
    patternHigh := l.high <<< c
    paletteLow := eightOf (pal.getLsbD 0) <<< c
    paletteHigh := eightOf (pal.getLsbD 1) <<< c }

/-- The pattern bits that shift out (R442). -/
def BgShifters.pattern (r : BgShifters) : BitVec 2 := planeBits r.patternLow r.patternHigh 0

/-- The palette-select bits that shift out (R442). -/
def BgShifters.palette (r : BgShifters) : BitVec 2 := planeBits r.paletteLow r.paletteHigh 0

/-- The registers with one pixel shifted out (R442). -/
def BgShifters.next (r : BgShifters) : BgShifters where
  patternLow := r.patternLow <<< 1
  patternHigh := r.patternHigh <<< 1
  paletteLow := r.paletteLow <<< 1
  paletteHigh := r.paletteHigh <<< 1

/-- `idx` of R442 from the shift registers: 0 is transparent. -/
def Ppu.bgIdx (p : Ppu) (r : BgShifters) (x : Nat) : BitVec 2 := if p.bgShown x then r.pattern else 0

/-! ## Sprites -/

/-- `h` of R443: 8 or 16 rows. -/
def Ppu.spriteHeight (p : Ppu) : Nat := if p.ctrl.getLsbD 5 then 16 else 8

/-- OAM entry `n` (R443). -/
def Ppu.oamEntry (p : Ppu) (n : Nat) : SpriteEntry where
  yPos := memGet p.oam (4 * n)
  tile := memGet p.oam (4 * n + 1)
  attr := memGet p.oam (4 * n + 2)
  xPos := memGet p.oam (4 * n + 3)

/-- Entry `n` qualifies on line `l` (R443). -/
def Ppu.qualifies (p : Ppu) (l n : Nat) : Bool :=
  let y := (memGet p.oam (4 * n)).toNat
  decide (y ≤ l ∧ l - y < p.spriteHeight)

/-- The result of sprite evaluation on line `l`, at dot 256 (R443). -/
def Ppu.evalSprites (p : Ppu) (l : Nat) : Ppu :=
  { p with
    secOam := (((List.range 64).filter (p.qualifies l)).take 8).map p.oamEntry
    sprite0Present := p.qualifies l 0 }

/-- The pattern address of a sprite on line `l` (R444), over the integers, then reduced to 14 bits (log 17). -/
def Ppu.spriteAddr (p : Ppu) (l : Nat) (e : SpriteEntry) : Int :=
  let row0 : Int := l - e.yPos.toNat
  let row := if e.attr.getLsbD 7 then p.spriteHeight - 1 - row0 else row0
  if p.ctrl.getLsbD 5 then
    0x1000 * (e.tile.getLsbD 0).toNat + ((e.tile &&& 0xFE).toNat + row / 8) * 16 + row % 8
  else
    0x1000 * (p.ctrl.getLsbD 3).toNat + e.tile.toNat * 16 + row

/-- A sprite shifter loaded on line `l` (R444). -/
def fetchSlot (s : State) (l : Nat) (e : SpriteEntry) : SpriteSlot :=
  let a := s.ppu.spriteAddr l e
  { low := ppuRead s (BitVec.ofInt 14 a)
    high := ppuRead s (BitVec.ofInt 14 (a + 8))
    xPos := e.xPos
    attr := e.attr }

/-- The sprite fetch at dot 320 (R444). -/
def fetchSprites (s : State) (l : Nat) : State :=
  { s with
    ppu.spr := s.ppu.secOam.map (fetchSlot s l)
    ppu.spr0OnLine := s.ppu.sprite0Present }

/-- `sidx` of a slot at column `x`, 0 outside its window (R445). -/
def SpriteSlot.pixel (sl : SpriteSlot) (x : Nat) : BitVec 2 :=
  let x0 := sl.xPos.toNat
  if x0 ≤ x ∧ x - x0 < 8 then
    let c := x - x0
    planeBits sl.low sl.high (if sl.attr.getLsbD 6 then 7 - c else c)
  else 0

/-- Sprites are shown at column `x` (R432, R445). -/
def Ppu.sprShown (p : Ppu) (x : Nat) : Bool := p.mask.getLsbD 4 && (8 ≤ x || p.mask.getLsbD 2)

/-- The sprite pixel at column `x`: that of the lowest slot with a non-transparent one (R445). -/
def Ppu.spritePixel (p : Ppu) (x : Nat) : Option (SpriteSlot × BitVec 2) :=
  if p.sprShown x then
    p.spr.findSome? fun sl => if sl.pixel x = 0 then none else some (sl, sl.pixel x)
  else none

/-- The sprite-zero hit condition at column `x`, `idx` being the background's (R446). -/
def Ppu.sprite0Hits (p : Ppu) (x : Nat) (idx : BitVec 2) : Bool :=
  match p.spr with
  | [] => false
  | sl :: _ => p.spr0OnLine && p.sprShown x && sl.pixel x != 0 && idx != 0 && !sl.attr.getLsbD 5

/-! ## The composite pixel -/

/-- The palette entry R445 selects. -/
def Ppu.colourKey (p : Ppu) (x : Nat) (idx pal : BitVec 2) : Nat :=
  let bgKey := if idx = 0 then 0 else 4 * pal.toNat + idx.toNat
  match p.spritePixel x with
  | none => bgKey
  | some (sl, sidx) =>
    if idx = 0 ∨ sl.attr.getLsbD 5 = false then 0x10 + 4 * (sl.attr.extractLsb' 0 2).toNat + sidx.toNat
    else bgKey

/-- What dot `x + 1` of visible line `y` does (R442, R445, R446). -/
def drawDot (s : State) (x y : Nat) : State :=
  let p := s.ppu
  let l := bgFetch s x y
  let r := p.bgLoad l x y
  let idx := p.bgIdx r x
  let colour := (memGet p.palette (p.colourKey x idx r.palette)).setWidth 6
  { s with
    ppu.bg := l
    ppu.bgShift := r.next
    ppu.sprite0Hit := p.sprite0Hit || p.sprite0Hits x idx
    ppu.framebuffer := insertKey (256 * y + x) ⟨colour, p.mask⟩ p.framebuffer }

/-- `RenderDot(line, dot)` (R440, R442 to R446): the pixel of a visible line, the evaluation at dot 256, the sprite
fetch at dot 320. -/
def renderDot (s : State) : State :=
  let line := s.ppu.line
  let dot := s.ppu.dot
  let s1 := if line ≤ 239 ∧ 1 ≤ dot ∧ dot ≤ 256 then drawDot s (dot - 1) line else s
  if dot = 256 then { s1 with ppu := s1.ppu.evalSprites line }
  else if dot = 320 then fetchSprites s1 line
  else s1

/-! ## Dots -/

/-- The next position (R440): 341 dots a line, 262 lines a frame. -/
def Ppu.nextPos (p : Ppu) : Ppu :=
  if p.dot + 1 = 341 then
    { p with dot := 0, line := if p.line + 1 = 262 then 0 else p.line + 1 }
  else { p with dot := p.dot + 1 }

/-- `VideoHandOff()` (R452): an output event; the machine's own state is unchanged (log 19). -/
def videoHandOff (s : State) : State :=
  { s with video := ⟨s.video.frames + 1, s.ppu.framebuffer⟩ }

/-- The flag events of a new position (R440): vblank set at (241, 1), flags cleared at (261, 1). -/
def ppuFlagEvents (s : State) : State :=
  if s.ppu.line = 241 ∧ s.ppu.dot = 1 then
    videoHandOff (nmiLineEval { s with ppu.nmiOccurred := true })
  else if s.ppu.line = 261 ∧ s.ppu.dot = 1 then
    nmiLineEval { s with
      ppu.nmiOccurred := false
      ppu.sprite0Hit := false
      ppu.spriteOverflow := false }
  else s

/-- Rendering happens at the current position (R440). -/
def Ppu.renders (p : Ppu) : Bool := p.rendering && decide (p.line ≤ 239 ∨ p.line = 261)

/-- `PpuAdvanceDot()` (R440). -/
def ppuAdvanceDot (s : State) : State :=
  let s1 := ppuFlagEvents { s with ppu := s.ppu.nextPos }
  if s1.ppu.renders then renderDot s1 else s1

/-- The colour the video sink sees at a framebuffer position: `Rgb` of what was drawn, black where nothing was
(R445, log 12). -/
def Framebuffer.rgb (f : Framebuffer) (x y : Nat) : BitVec 24 :=
  match lookupKey (256 * y + x) f with
  | some p => Config.rgb p.colour p.mask
  | none => 0

end Sys2Proof.Machine
end

