-- ==== Sys2Proof/Machine/Bus.lean ====
section
/-! DEFINITION. The memory bus (spec/20_memory.md): the tick, the address decode, the two ticking primitives, the
non-ticking port, OAM DMA (60_exceptions.md R450) and the controller port (R480). -/

namespace Sys2Proof.Machine

/-! ## The tick -/

/-- `tick(1)` (R64): the cycle counter, three PPU dots, one APU cycle. -/
def tick (s : State) : State :=
  apuAdvance (ppuAdvanceDot (ppuAdvanceDot (ppuAdvanceDot { s with cycles := s.cycles + 1 })))

/-! ## Controller port -/

/-- The host's button byte at a strobe write: the next one of `input`, else a free value (R480, U14, log 5). -/
def sampleButtons (s : State) : Byte × State :=
  match s.input with
  | b :: rest => (b, { s with input := rest })
  | [] => (Config.buttons s.draws, { s with draws := s.draws + 1 })

/-- A write to `$4016` (R480). -/
def controllerWrite (v : Byte) (s : State) : State :=
  if v.getLsbD 0 then
    let b := sampleButtons s
    { b.2 with ctl := ⟨true, b.1⟩ }
  else { s with ctl.strobe := false }

/-- A read of `$4016` (R480): the serial bit; it shifts while the strobe is 0, ones coming in. -/
def controllerRead (s : State) : Byte × State :=
  let b : Byte := s.ctl.shift &&& 1
  if s.ctl.strobe then (b, s) else (b, { s with ctl.shift := (s.ctl.shift >>> 1) ||| 0x80 })

/-! ## Address decode -/

/-- One byte of internal RAM, mirrored every `$0800` (R66). -/
def ramGet (s : State) (a : Word) : Byte := memGet s.ram (a.toNat % 0x800)

/-- Storing to internal RAM (R66). -/
def ramSet (a : Word) (v : Byte) (s : State) : State := { s with ram := memSet s.ram (a.toNat % 0x800) v }

/-- `BusDecodeRead(addr)` (R65). -/
def busDecodeRead (a : Word) (s : State) : Byte × State :=
  let k := a.toNat
  if k < 0x2000 then (ramGet s a, s)
  else if k < 0x4000 then ppuRegRead (ppuRegOf k) s
  else if k = 0x4014 then drawByte s
  else if k = 0x4016 then controllerRead s
  else if k < 0x4018 then (0, s)
  else if k < 0x4020 then drawByte s
  else mapperRead a s

/-- `MemRead(addr, 1)` (R62): tick, then the decoded read with its side effects. -/
def memRead (a : Word) (s : State) : Byte × State := busDecodeRead a (tick s)

/-- `BusDecodeWrite(addr, val)` (R65) at every address but `$4014`, which does nothing here. -/
def busStore (a : Word) (v : Byte) (s : State) : State :=
  let k := a.toNat
  if k < 0x2000 then ramSet a v s
  else if k < 0x4000 then ppuRegWrite (ppuRegOf k) v s
  else if k = 0x4014 then s
  else if k = 0x4016 then controllerWrite v s
  else if k < 0x4018 then { s with apu := s.apu.write k v }
  else if k < 0x4020 then s
  else mapperWrite a v s

/-- Bytes `i` to `i + n - 1` of an OAM DMA from page `page` (R450): a read, then an OAMDATA write, a tick each. -/
def oamDmaFrom (page : Byte) : Nat → Nat → State → State
  | 0, _, s => s
  | n + 1, i, s =>
    let r := memRead (mkWord page (BitVec.ofNat 8 i)) s
    oamDmaFrom page n (i + 1) (busStore 0x2004 r.1 (tick r.2))

/-- `OamDma(page)` (R450): 256 bytes, 512 ticks. -/
def oamDma (page : Byte) (s : State) : State := oamDmaFrom page 256 0 s

/-- `BusDecodeWrite(addr, val)` (R65, R70). -/
def busDecodeWrite (a : Word) (v : Byte) (s : State) : State :=
  if a = 0x4014 then oamDma v s else busStore a v s

/-- `MemWrite(addr, 1, val)` (R63): tick, then the decoded write. -/
def memWrite (a : Word) (v : Byte) (s : State) : State := busDecodeWrite a v (tick s)

/-- `Peek(addr)` (R80, D19): the value a read would give, with no tick and no side effect. -/
def peek (s : State) (a : Word) : Byte := (busDecodeRead a s).1

/-- The little-endian word at an address pair, peeked (R74, R80). -/
def peekWord (s : State) (a : Word) : Word := mkWord (peek s (a + 1)) (peek s a)

end Sys2Proof.Machine
end

