-- ==== Sys2Proof/Machine/Flags.lean ====
section
/-! DEFINITION. The status byte and every flag computation (10_state.md R25 to R27; files 44 to 46). -/

namespace Sys2Proof.Machine

/-- `StatusForPush(b)` (R25): N V 1 b D I Z C. -/
def Cpu.statusForPush (c : Cpu) (b : Bool) : Byte :=
  BitVec.ofBool c.n ++ BitVec.ofBool c.v ++ 1#1 ++ BitVec.ofBool b ++
    BitVec.ofBool c.d ++ BitVec.ofBool c.i ++ BitVec.ofBool c.z ++ BitVec.ofBool c.c

/-- `SetStatus(v)` (R25): bits 5 and 4 are dropped (D9). -/
def Cpu.setStatus (c : Cpu) (v : Byte) : Cpu :=
  { c with
    n := v.getLsbD 7
    v := v.getLsbD 6
    d := v.getLsbD 3
    i := v.getLsbD 2
    z := v.getLsbD 1
    c := v.getLsbD 0 }

/-- `setNZ(v)` (00_scope.md R10). -/
def Cpu.setNZ (c : Cpu) (v : Byte) : Cpu := { c with n := v.getLsbD 7, z := v == 0 }

/-- A carry as a number. -/
def Cpu.carry (c : Cpu) : Nat := c.c.toNat

/-- ADC of a byte to A, binary whatever D is (R260). -/
def Cpu.adc (c : Cpu) (m : Byte) : Cpu :=
  let sum := c.a.toNat + m.toNat + c.carry
  let r : Byte := BitVec.ofNat 8 sum
  { c with
    a := r
    v := (~~~(c.a ^^^ m) &&& (c.a ^^^ r)).getLsbD 7
    c := decide (sum > 0xFF) }.setNZ r

/-- SBC of a byte from A, binary whatever D is (R261). -/
def Cpu.sbc (c : Cpu) (m : Byte) : Cpu :=
  let diff : Int := (c.a.toNat : Int) - m.toNat - (1 - c.carry)
  let r : Byte := BitVec.ofInt 8 diff
  { c with
    a := r
    v := ((c.a ^^^ m) &&& (c.a ^^^ r)).getLsbD 7
    c := decide (diff ≥ 0) }.setNZ r

/-- A compare of register value `r` with `m` (R262): N is bit 7 of the unclamped difference. -/
def Cpu.compare (c : Cpu) (r m : Byte) : Cpu :=
  let diff : Int := (r.toNat : Int) - m.toNat
  { c with
    c := decide (r.toNat ≥ m.toNat)
    z := r == m
    n := (BitVec.ofInt 8 diff).getLsbD 7 }

/-- BIT (R283): Z from the AND, N and V from the memory byte. -/
def Cpu.bitTest (c : Cpu) (m : Byte) : Cpu :=
  { c with
    z := c.a &&& m == 0
    n := m.getLsbD 7
    v := m.getLsbD 6 }

/-- A shift, rotate, increment or decrement of one byte: the new byte and the carry it leaves. -/
structure Modified where
  new : Byte
  carry : Bool
  deriving DecidableEq, Repr

/-- ASL (R300). -/
def Cpu.aslByte (_ : Cpu) (old : Byte) : Modified := ⟨old <<< 1, old.getLsbD 7⟩

/-- LSR (R301). -/
def Cpu.lsrByte (_ : Cpu) (old : Byte) : Modified := ⟨old >>> 1, old.getLsbD 0⟩

/-- ROL (R302). -/
def Cpu.rolByte (c : Cpu) (old : Byte) : Modified := ⟨old.setWidth 7 ++ BitVec.ofBool c.c, old.getLsbD 7⟩

/-- ROR (R303). -/
def Cpu.rorByte (c : Cpu) (old : Byte) : Modified := ⟨BitVec.ofBool c.c ++ old.extractLsb' 1 7, old.getLsbD 0⟩

/-- INC (R304): the carry is left alone. -/
def Cpu.incByte (c : Cpu) (old : Byte) : Modified := ⟨old + 1, c.c⟩

/-- DEC (R305): the carry is left alone. -/
def Cpu.decByte (c : Cpu) (old : Byte) : Modified := ⟨old - 1, c.c⟩

/-- The flags a modified byte leaves (R300 to R305). -/
def Cpu.setModified (c : Cpu) (m : Modified) : Cpu := { c with c := m.carry }.setNZ m.new

end Sys2Proof.Machine
end

