-- ==== Sys2Proof/Machine/Ops.lean ====
section
/-! DEFINITION. The named operations of 00_scope.md R11 over the bus and the registers; taking an interrupt
(60_exceptions.md R415, R416) and returning from one (R420), each written once; the host's reset
(70_reset_and_hazards.md R600). -/

namespace Sys2Proof.Machine

/-- The outcome of a step of this machine. -/
abbrev Result := Host.Outcome State Fault Refusal

/-! ## Registers -/

/-- A change of CPU registers and flags. -/
def State.setCpu (s : State) (c : Cpu) : State := { s with cpu := c }

def State.setPc (s : State) (w : Word) : State := { s with cpu.pc := w }

def State.setSp (s : State) (v : Byte) : State := { s with cpu.sp := v }

/-! ## Fetch and stack (R11) -/

/-- A dummy read (R11): it ticks and has the side effects of a read. -/
def dummyRead (a : Word) (s : State) : State := (memRead a s).2

/-- `Fetch()` (R11, R23). -/
def fetch (s : State) : Byte × State :=
  let r := memRead s.cpu.pc s
  (r.1, r.2.setPc (s.cpu.pc + 1))

/-- The stack address `$0100 | SP` (R22). -/
def stackAddr (sp : Byte) : Word := mkWord 0x01 sp

/-- `Push(v)` (R11): write, then decrement. -/
def push (v : Byte) (s : State) : State := (memWrite (stackAddr s.cpu.sp) v s).setSp (s.cpu.sp - 1)

/-- `Pull()` (R11): increment, then read. -/
def pull (s : State) : Byte × State :=
  let s' := s.setSp (s.cpu.sp + 1)
  memRead (stackAddr s'.cpu.sp) s'

/-- `Push(w[15:8]); Push(w[7:0])` (R202, R205, R416). -/
def pushWord (w : Word) (s : State) : State := push (loByte w) (push (hiByte w) s)

/-- `lo <- Pull(); hi <- Pull()` (R203, R204). -/
def pullWord (s : State) : Word × State :=
  let lo := pull s
  let hi := pull lo.2
  (mkWord hi.1 lo.1, hi.2)

/-- The word at a vector, low byte first, through the bus (R74, R205, R416). -/
def readVector (v : Word) (s : State) : Word × State :=
  let lo := memRead v s
  let hi := memRead (v + 1) lo.2
  (mkWord hi.1 lo.1, hi.2)

/-! ## Interrupts -/

/-- Taking an interrupt through a vector, the part BRK and the NMI service share (R205, R416, R417): push `pc` high,
low, push the status with bit 4 = `b`, load `pc` from the vector, set I (log 21). -/
def takeInterrupt (b : Bool) (vector : Word) (s : State) : State :=
  let s1 := push (s.cpu.statusForPush b) (pushWord s.cpu.pc s)
  let v := readVector vector s1
  v.2.setCpu { v.2.cpu with pc := v.1, i := true }

/-- `NmiService()` (R416): clear the queue, two dummy reads of `pc`, then the entry with bit 4 clear. -/
def nmiService (s : State) : State :=
  let s1 := { s with nmiQueued := false }
  takeInterrupt false 0xFFFA (dummyRead s.cpu.pc (dummyRead s.cpu.pc s1))

/-- The NMI check after an instruction (R415); an instruction that raised a fatal error has none (R337, R414). -/
def nmiCheck (s : State) : State :=
  if s.fault = none ∧ s.nmiQueued then nmiService s else s

/-- The return from an interrupt (R204, R420), after the opcode: two dummy reads, pull the status, pull `pc`. -/
def returnFromInterrupt (s : State) : State :=
  let s1 := dummyRead (stackAddr s.cpu.sp) (dummyRead s.cpu.pc s)
  let p := pull s1
  let w := pullWord (p.2.setCpu (p.2.cpu.setStatus p.1))
  w.2.setPc w.1

/-- `raise UnimplementedOpcode(op, pc0)` (R337, R400, D20): the fault is set and nothing else changes. -/
def raiseFault (f : Fault) (s : State) : State := { s with fault := some f }

/-! ## Reset -/

/-- `Reset()` (R600, R601): every component to its reset value, then `pc` from the vector, peeked. The configuration,
the mapper kind, the host's input, the ports and the draw count stay (log 20). -/
def hostReset (s : State) : State :=
  let r := { State.initial s.cfg s.mapper with
    input := s.input
    draws := s.draws
    video := s.video
    audio := s.audio }
  r.setPc (peekWord r 0xFFFC)

end Sys2Proof.Machine
end

