-- ==== Sys2Proof/Machine/Operands.lean ====
section
/-! DEFINITION. The addressing modes (30_encoding.md R109 to R120) with their exact bus accesses. They run after the
step has fetched the opcode and the operand bytes (log 8), so `pc` is the next instruction's address. -/

namespace Sys2Proof.Machine

/-- The two kinds of address resolution (section 4 of 30_encoding.md): the read kind skips the dummy read of R116 and
R118 when no page is crossed, the write kind, which RMW instructions use too, never does. -/
inductive Access where
  | read
  | write
  deriving DecidableEq, Repr

/-- The indexed address with the high byte not yet corrected, `un` of R116 and R118. -/
def uncorrected (base : Word) (idx : Byte) : Word := mkWord (hiByte base) (loByte base + idx)

/-- The indexed address, `u16(base + idx)` (R116, R118). -/
def indexed (base : Word) (idx : Byte) : Word := base + idx.setWidth 16

/-- The last part of R116 and R118: the dummy read at the uncorrected address, then the effective address. -/
def indexAccess (k : Access) (base : Word) (idx : Byte) (s : State) : Word × State :=
  let un := uncorrected base idx
  let ea := indexed base idx
  match k with
  | .read => (ea, if un = ea then s else dummyRead un s)
  | .write => (ea, dummyRead un s)

/-- A zero-page address (R109). -/
def zeroPage (d : Byte) : Word := d.setWidth 16

/-- A pointer of two zero-page bytes, the second in the same page (R117, R118). -/
def readPointer (p : Byte) (s : State) : Word × State :=
  let lo := memRead (zeroPage p) s
  let hi := memRead (zeroPage (p + 1)) lo.2
  (mkWord hi.1 lo.1, hi.2)

/-- `ea <- Mode_R()` or `ea <- Mode_W()` of a memory operand (R113 to R118), the operand bytes being fetched. -/
def resolve (k : Access) (l : Loc) (s : State) : Word × State :=
  match l with
  | .zp d => (zeroPage d, s)
  | .zpx d => (zeroPage (d + s.cpu.x), dummyRead (zeroPage d) s)
  | .zpy d => (zeroPage (d + s.cpu.y), dummyRead (zeroPage d) s)
  | .abs a => (a, s)
  | .abx a => indexAccess k a s.cpu.x s
  | .aby a => indexAccess k a s.cpu.y s
  | .izx d => readPointer (d + s.cpu.x) (dummyRead (zeroPage d) s)
  | .izy d =>
    let b := readPointer d s
    indexAccess k b.1 s.cpu.y b.2

/-- The read kind of an operand (R112 to R118): `m` and the state after its accesses. -/
def readSrc (o : Src) (s : State) : Byte × State :=
  match o with
  | .imm v => (v, s)
  | .mem l =>
    let ea := resolve .read l s
    memRead ea.1 ea.2

/-- The write kind of an operand: `Write(ea, v)`. -/
def storeLoc (l : Loc) (v : Byte) (s : State) : State :=
  let ea := resolve .write l s
  memWrite ea.1 v ea.2

/-- A read-modify-write of memory (46_shift_incdec.md): read, write the old value, write the new one, set the flags. -/
def modifyLoc (f : Cpu → Byte → Modified) (l : Loc) (s : State) : State :=
  let ea := resolve .write l s
  let old := memRead ea.1 ea.2
  let m := f s.cpu old.1
  let s1 := memWrite ea.1 m.new (memWrite ea.1 old.1 old.2)
  s1.setCpu (s1.cpu.setModified m)

/-- The accumulator form of a shift or rotate (R111, R300 to R303). -/
def modifyAcc (f : Cpu → Byte → Modified) (s : State) : State :=
  let s1 := dummyRead s.cpu.pc s
  let m := f s.cpu s.cpu.a
  s1.setCpu ({ s1.cpu with a := m.new }.setModified m)

/-- A shift or rotate of its target (R300 to R303). -/
def modifyTarget (f : Cpu → Byte → Modified) (t : Target) (s : State) : State :=
  match t with
  | .acc => modifyAcc f s
  | .mem l => modifyLoc f l s

/-- The single-byte template (R110, R150): the dummy read of the next byte, then a change of registers and flags. -/
def implied (f : Cpu → Cpu) (s : State) : State :=
  let s1 := dummyRead s.cpu.pc s
  s1.setCpu (f s1.cpu)

/-- The read-kind template (R240 to R242, R260 to R264, R280 to R283, R336): the operand, then a change of registers
and flags by it. -/
def withOperand (f : Cpu → Byte → Cpu) (o : Src) (s : State) : State :=
  let m := readSrc o s
  m.2.setCpu (f m.2.cpu m.1)

/-- A conditional branch after its displacement byte (R120, R220). -/
def branch (taken : Bool) (d : Byte) (s : State) : State :=
  if taken then
    let pc := s.cpu.pc
    let s1 := dummyRead pc s
    let t := pc + sext8 d
    let s2 := if hiByte t = hiByte pc then s1 else dummyRead (mkWord (hiByte pc) (loByte t)) s1
    s2.setPc t
  else s

end Sys2Proof.Machine
end

