-- ==== Sys2Proof/Machine/Arith.lean ====
section
/-! DEFINITION. Add, subtract, compare (spec/44_arithmetic_compare.md R260 to R265), the logical operations and BIT
(spec/45_logical_bit.md R280 to R283). -/

namespace Sys2Proof.Machine

/-- ADC (R260). -/
def execAdc (o : Src) (s : State) : Result := .next (withOperand Cpu.adc o s)

/-- SBC (R261). -/
def execSbc (o : Src) (s : State) : Result := .next (withOperand Cpu.sbc o s)

/-- CMP (R262). -/
def execCmp (o : Src) (s : State) : Result := .next (withOperand (fun c m => c.compare c.a m) o s)

/-- CPX (R263). -/
def execCpx (o : Src) (s : State) : Result := .next (withOperand (fun c m => c.compare c.x m) o s)

/-- CPY (R264). -/
def execCpy (o : Src) (s : State) : Result := .next (withOperand (fun c m => c.compare c.y m) o s)

/-- AND (R280). -/
def execAnd (o : Src) (s : State) : Result := .next (withOperand (fun c m => { c with a := c.a &&& m }.setNZ (c.a &&& m)) o s)

/-- ORA (R281). -/
def execOra (o : Src) (s : State) : Result := .next (withOperand (fun c m => { c with a := c.a ||| m }.setNZ (c.a ||| m)) o s)

/-- EOR (R282). -/
def execEor (o : Src) (s : State) : Result := .next (withOperand (fun c m => { c with a := c.a ^^^ m }.setNZ (c.a ^^^ m)) o s)

/-- BIT (R283). -/
def execBit (l : Loc) (s : State) : Result := .next (withOperand Cpu.bitTest (.mem l) s)

end Sys2Proof.Machine
end

