-- ==== Sys2Proof/Machine/Control.lean ====
section
/-! DEFINITION. Jumps, subroutine call and return, interrupt return, BRK (spec/41_jumps_calls_returns.md R200 to R205) and the
conditional branches (spec/42_branches.md R220 to R228). `pc` is past the operand bytes the step fetched (log 8). -/

namespace Sys2Proof.Machine

/-- JMP absolute (R200). -/
def execJmp (target : Word) (s : State) : Result := .next (s.setPc target)

/-- JMP indirect (R201): the pointer's second byte comes from the same page (R119, D10). -/
def execJmpInd (ptr : Word) (s : State) : Result :=
  let lo := memRead ptr s
  let hi := memRead (mkWord (hiByte ptr) (loByte ptr + 1)) lo.2
  .next (hi.2.setPc (mkWord hi.1 lo.1))

/-- JSR (R202): `pc` is the address of the third byte, which is read only after the pushes. -/
def execJsr (lo : Byte) (s : State) : Result :=
  let s1 := pushWord s.cpu.pc (dummyRead (stackAddr s.cpu.sp) s)
  let hi := memRead s.cpu.pc s1
  .next (hi.2.setPc (mkWord hi.1 lo))

/-- RTS (R203). -/
def execRts (s : State) : Result :=
  let w := pullWord (dummyRead (stackAddr s.cpu.sp) (dummyRead s.cpu.pc s))
  .next ((dummyRead w.1 w.2).setPc (w.1 + 1))

/-- RTI (R204, R420). -/
def execRti (s : State) : Result := .next (returnFromInterrupt s)

/-- BRK (R205, R417): fetch the padding byte, then the interrupt entry with bit 4 set through `$FFFE`. -/
def execBrk (s : State) : Result := .next (takeInterrupt true 0xFFFE (fetch s).2)

/-- BPL (R221): taken when N is 0. -/
def execBpl (d : Byte) (s : State) : Result := .next (branch (!s.cpu.n) d s)

/-- BMI (R222): taken when N is 1. -/
def execBmi (d : Byte) (s : State) : Result := .next (branch s.cpu.n d s)

/-- BVC (R223): taken when V is 0. -/
def execBvc (d : Byte) (s : State) : Result := .next (branch (!s.cpu.v) d s)

/-- BVS (R224): taken when V is 1. -/
def execBvs (d : Byte) (s : State) : Result := .next (branch s.cpu.v d s)

/-- BCC (R225): taken when C is 0. -/
def execBcc (d : Byte) (s : State) : Result := .next (branch (!s.cpu.c) d s)

/-- BCS (R226): taken when C is 1. -/
def execBcs (d : Byte) (s : State) : Result := .next (branch s.cpu.c d s)

/-- BNE (R227): taken when Z is 0. -/
def execBne (d : Byte) (s : State) : Result := .next (branch (!s.cpu.z) d s)

/-- BEQ (R228): taken when Z is 1. -/
def execBeq (d : Byte) (s : State) : Result := .next (branch s.cpu.z d s)

end Sys2Proof.Machine
end

