-- ==== Sys2Proof/Machine/Implied.lean ====
section
/-! DEFINITION. The single-byte operations (spec/40_single_byte.md R150 to R172). -/

namespace Sys2Proof.Machine

/-! ## Flag set and clear -/

/-- CLC (R151). -/
def execClc (s : State) : Result := .next (implied (fun c => { c with c := false }) s)

/-- SEC (R152). -/
def execSec (s : State) : Result := .next (implied (fun c => { c with c := true }) s)

/-- CLI (R153). -/
def execCli (s : State) : Result := .next (implied (fun c => { c with i := false }) s)

/-- SEI (R154). -/
def execSei (s : State) : Result := .next (implied (fun c => { c with i := true }) s)

/-- CLV (R155). -/
def execClv (s : State) : Result := .next (implied (fun c => { c with v := false }) s)

/-- CLD (R156). -/
def execCld (s : State) : Result := .next (implied (fun c => { c with d := false }) s)

/-- SED (R157). -/
def execSed (s : State) : Result := .next (implied (fun c => { c with d := true }) s)

/-! ## Register transfers -/

/-- TAX (R158). -/
def execTax (s : State) : Result := .next (implied (fun c => { c with x := c.a }.setNZ c.a) s)

/-- TAY (R159). -/
def execTay (s : State) : Result := .next (implied (fun c => { c with y := c.a }.setNZ c.a) s)

/-- TXA (R160). -/
def execTxa (s : State) : Result := .next (implied (fun c => { c with a := c.x }.setNZ c.x) s)

/-- TYA (R161). -/
def execTya (s : State) : Result := .next (implied (fun c => { c with a := c.y }.setNZ c.y) s)

/-- TSX (R162). -/
def execTsx (s : State) : Result := .next (implied (fun c => { c with x := c.sp }.setNZ c.sp) s)

/-- TXS (R163): the transfer that leaves N and Z alone. -/
def execTxs (s : State) : Result := .next (implied (fun c => { c with sp := c.x }) s)

/-! ## Push and pull -/

/-- PHA (R164). -/
def execPha (s : State) : Result := .next (push s.cpu.a (dummyRead s.cpu.pc s))

/-- PHP (R165): bits 5 and 4 of the pushed byte are set. -/
def execPhp (s : State) : Result := .next (push (s.cpu.statusForPush true) (dummyRead s.cpu.pc s))

/-- What PLA and PLP share (R166, R167): the two dummy reads, then the pull. -/
def pullAfterDummies (s : State) : Byte × State :=
  pull (dummyRead (stackAddr s.cpu.sp) (dummyRead s.cpu.pc s))

/-- PLA (R166). -/
def execPla (s : State) : Result :=
  let p := pullAfterDummies s
  .next (p.2.setCpu ({ p.2.cpu with a := p.1 }.setNZ p.1))

/-- PLP (R167). -/
def execPlp (s : State) : Result :=
  let p := pullAfterDummies s
  .next (p.2.setCpu (p.2.cpu.setStatus p.1))

/-! ## Register increment and decrement -/

/-- INX (R168). -/
def execInx (s : State) : Result := .next (implied (fun c => { c with x := c.x + 1 }.setNZ (c.x + 1)) s)

/-- INY (R169). -/
def execIny (s : State) : Result := .next (implied (fun c => { c with y := c.y + 1 }.setNZ (c.y + 1)) s)

/-- DEX (R170). -/
def execDex (s : State) : Result := .next (implied (fun c => { c with x := c.x - 1 }.setNZ (c.x - 1)) s)

/-- DEY (R171). -/
def execDey (s : State) : Result := .next (implied (fun c => { c with y := c.y - 1 }.setNZ (c.y - 1)) s)

/-! ## No operation -/

/-- NOP `$EA` (R172). -/
def execNop (s : State) : Result := .next (dummyRead s.cpu.pc s)

end Sys2Proof.Machine
end

