-- ==== Sys2Proof/Machine/LoadStore.lean ====
section
/-! DEFINITION. Loads and stores (spec/43_load_store.md R240 to R245). -/

namespace Sys2Proof.Machine

/-- LDA (R240). -/
def execLda (o : Src) (s : State) : Result := .next (withOperand (fun c m => { c with a := m }.setNZ m) o s)

/-- LDX (R241). -/
def execLdx (o : Src) (s : State) : Result := .next (withOperand (fun c m => { c with x := m }.setNZ m) o s)

/-- LDY (R242). -/
def execLdy (o : Src) (s : State) : Result := .next (withOperand (fun c m => { c with y := m }.setNZ m) o s)

/-- STA (R243). -/
def execSta (l : Loc) (s : State) : Result := .next (storeLoc l s.cpu.a s)

/-- STX (R244). -/
def execStx (l : Loc) (s : State) : Result := .next (storeLoc l s.cpu.x s)

/-- STY (R245). -/
def execSty (l : Loc) (s : State) : Result := .next (storeLoc l s.cpu.y s)

end Sys2Proof.Machine
end

