-- ==== Sys2Proof/Machine/Shift.lean ====
section
/-! DEFINITION. Shifts, rotates, memory increment and decrement (spec/46_shift_incdec.md R300 to R305). -/

namespace Sys2Proof.Machine

/-- ASL (R300). -/
def execAsl (t : Target) (s : State) : Result := .next (modifyTarget Cpu.aslByte t s)

/-- LSR (R301). -/
def execLsr (t : Target) (s : State) : Result := .next (modifyTarget Cpu.lsrByte t s)

/-- ROL (R302). -/
def execRol (t : Target) (s : State) : Result := .next (modifyTarget Cpu.rolByte t s)

/-- ROR (R303). -/
def execRor (t : Target) (s : State) : Result := .next (modifyTarget Cpu.rorByte t s)

/-- INC (R304). -/
def execInc (l : Loc) (s : State) : Result := .next (modifyLoc Cpu.incByte l s)

/-- DEC (R305). -/
def execDec (l : Loc) (s : State) : Result := .next (modifyLoc Cpu.decByte l s)

end Sys2Proof.Machine
end

