-- ==== Sys2Proof/Machine/Unofficial.lean ====
section
/-! DEFINITION. The unofficial opcodes and the unimplemented-opcode fault (spec/47_unofficial.md R330 to R337). -/

namespace Sys2Proof.Machine

/-- Unofficial NOP, implied (R330). -/
def execNopImp (s : State) : Result := .next (dummyRead s.cpu.pc s)

/-- Unofficial NOP, immediate (R331): its operand byte was fetched and is discarded. -/
def execNopImm (s : State) : Result := .next s

/-- An unofficial NOP with a memory operand (R332 to R335): the accesses of the read kind, the data discarded. -/
def readAndDiscard (l : Loc) (s : State) : State := (readSrc (.mem l) s).2

/-- Unofficial NOP, zero page (R332). -/
def execNopZp (d : Byte) (s : State) : Result := .next (readAndDiscard (.zp d) s)

/-- Unofficial NOP, zero page indexed by X (R333). -/
def execNopZpx (d : Byte) (s : State) : Result := .next (readAndDiscard (.zpx d) s)

/-- Unofficial NOP, absolute (R334). -/
def execNopAbs (a : Word) (s : State) : Result := .next (readAndDiscard (.abs a) s)

/-- Unofficial NOP, absolute indexed by X (R335). -/
def execNopAbx (a : Word) (s : State) : Result := .next (readAndDiscard (.abx a) s)

/-- LAX (R336): A and X together. -/
def execLax (l : Loc) (s : State) : Result :=
  .next (withOperand (fun c m => { c with a := m, x := m }.setNZ m) (.mem l) s)

/-- An opcode byte with no instruction (R337, D20): the opcode has been fetched, so it came from `pc - 1`; the fault is
set, nothing else changes. -/
def execUndef (op : Byte) (s : State) : Result := .next (raiseFault (.unimplementedOpcode op (s.cpu.pc - 1)) s)

end Sys2Proof.Machine
end

