-- ==== Sys2Proof/Machine/Fetch.lean ====
section
/-! DEFINITION. Fetching the bytes of an instruction (30_encoding.md R100, R101; log 8) and placing them. -/

namespace Sys2Proof.Machine

/-- Opcode fetch, dispatch and the operand fetches that every mode rule of R112 to R120 begins with. JSR's last byte is
not fetched: the instruction is named by the byte that stands there now, and R202 reads it later (log 8). -/
def fetchInstr (s : State) : Instr × State :=
  let op := fetch s
  match opcodeRow op.1 with
  | .f1 i => (i, op.2)
  | .f2 g =>
    let b1 := fetch op.2
    (g b1.1, b1.2)
  | .f3 g =>
    let b1 := fetch op.2
    let b2 := fetch b1.2
    (g (mkWord b2.1 b1.1), b2.2)
  | .f3late g =>
    let b1 := fetch op.2
    (g b1.1 (peek b1.2 b1.2.cpu.pc), b1.2)

/-- The address is in internal RAM or in PRG space, where a byte can be placed. -/
def placeable (a : Word) : Bool := decide (a.toNat < 0x2000 ∨ 0x8000 ≤ a.toNat)

/-- The state whose next read of `a` gives `v`: in RAM, or in the PRG array at the index now visible at `a`. -/
def placeByte (a : Word) (v : Byte) (s : State) : State :=
  if a.toNat < 0x2000 then ramSet a v s
  else
    { s with
      cfg.prg := memSet s.cfg.prg (s.mapper.prgIndex s.cfg a.toNat % (16384 * s.cfg.prgBanks)) v }

/-- Bytes placed from `a` upwards. -/
def placeBytes (a : Word) : List Byte → State → State
  | [], s => s
  | v :: rest, s => placeBytes (a + 1) rest (placeByte a v s)

/-- The state whose next step fetches these bytes: no fault pending, and where `pc` is, unless a byte of them would
lie in a device range; then `pc` moves to `$0000` (log 23). -/
def placeInstr (bytes : List Byte) (s : State) : State :=
  let pc := s.cpu.pc
  let at0 := if placeable pc && placeable (pc + 1) && placeable (pc + 2) then pc else 0
  placeBytes at0 bytes { s.setPc at0 with fault := none }

end Sys2Proof.Machine
end

