-- ==== Sys2Proof/Machine/Step.lean ====
section
/-! DEFINITION. One step of the machine (30_encoding.md R100) and placing an instruction where it is fetched next. -/

namespace Sys2Proof.Machine

/-- One step (R100): nothing after a fatal error (D20, log 6); else fetch and decode, execute, check for an NMI. -/
def step (s : State) : Host.Outcome State Fault Refusal :=
  if s.fault.isSome then .next s
  else
    let f := fetchInstr s
    match exec f.1 f.2 with
    | .next t => .next (nmiCheck t)
    | .fault r => .fault r
    | .refused r => .refused r

/-- `s` with the instruction of a table word stored where the next step fetches it (log 23). -/
def State.withFetchWord (s : State) (nbits w : Nat) : State := placeInstr (tableBytes nbits w) s

end Sys2Proof.Machine
end

