-- ==== Sys2Proof/Safety.lean ====
section
/-! DEFINITION. What claims are stated in: a safe run, the invariant of the machine, the
effective address, the bus accesses and the frame of an instruction, the tick counts as the spec's table gives them, the
PPU's pixels and space and the APU's registers as its rules give them. -/

namespace Sys2Proof.Machine

/-! ## Safe runs -/

/-- No fatal error has been raised (R35). -/
def Safe (s : State) : Prop := s.fault = none

/-- `k` steps of the machine; it never stops (log 6). -/
def runSteps : Nat → State → State
  | 0, s => s
  | k + 1, s =>
    match step s with
    | .next t => runSteps k t
    | .fault _ => s
    | .refused _ => s

/-- A run of `k` steps that raises no fatal error. -/
def SafeRun (k : Nat) (s : State) : Prop := ∀ j, j ≤ k → Safe (runSteps j s)

/-! ## The invariant -/

/-- The PPU's ranges (10_state.md R37: line 0 to 261, dot 0 to 340, at most 8 sprites a line; palette entries of 6
bits, R439) and the canonical form of its memories. -/
structure Ppu.Inv (p : Ppu) : Prop where
  lineLt : p.line < 262
  dotLt : p.dot < 341
  secOamLen : p.secOam.length ≤ 8
  sprLen : p.spr.length ≤ 8
  oamWf : Memory.wf 256 p.oam
  nametableWf : Memory.wf 2048 p.nametable
  paletteWf : Memory.wf 32 p.palette
  paletteSix : ∀ q ∈ p.palette, q.2.toNat < 64
  framebufferRising : Rising p.framebuffer
  framebufferRange : ∀ q ∈ p.framebuffer, q.1 < 256 * 240

/-- The frame sequencer stays below its mode's last threshold (R461) and the LFSR is never 0 (R495). -/
structure Apu.Inv (a : Apu) : Prop where
  fsLt : a.fs < if a.fiveStep then 37281 else 29829
  lfsrNe : a.noise.lfsr ≠ 0

/-- MMC1 has shifted in at most four bits (R476). -/
def Mapper.Inv : Mapper → Prop
  | .mmc1 m => m.count < 5
  | _ => True

/-- The invariant every step keeps: ranges, canonical memories, and the NMI edge detector holding the level of the
derived line (R32, R441). -/
structure Inv (s : State) : Prop where
  ramWf : Memory.wf 2048 s.ram
  chrRamWf : Memory.wf 8192 s.chrRam
  ppu : s.ppu.Inv
  apu : s.apu.Inv
  mapper : s.mapper.Inv
  nmiLine : s.nmiLinePrev = s.ppu.nmiLine
  buffer : s.cfg.bufferCapacity ≠ 0 → s.apu.buffer.length < s.cfg.bufferCapacity

/-! ## Addresses -/

/-- The address is in internal RAM or its mirrors (R66). -/
def InRam (a : Word) : Prop := a.toNat < 0x2000

/-- The address is in the cartridge's PRG space (R72). -/
def InRom (a : Word) : Prop := 0x8000 ≤ a.toNat

/-- A read of the address has no effect but its tick (R66, R72, R77). -/
def Plain (a : Word) : Prop := InRam a ∨ InRom a

/-- The kind of mapper, `MAPPER_ID` (R7). -/
def Mapper.kind : Mapper → MapperKind
  | .nrom => .nrom
  | .mmc1 _ => .mmc1
  | .uxrom _ => .uxrom
  | .cnrom _ => .cnrom
  | .gxrom _ _ => .gxrom

/-- The pointer of an indirect operand at zero-page address `p` (R117, R118). -/
def zpPointer (p : Byte) (s : State) : Word := mkWord (memGet s.ram ((p.toNat + 1) % 256)) (memGet s.ram p.toNat)

/-- The effective address of a memory operand from the registers and internal RAM alone (R113 to R118, R122). -/
def effAddr (l : Loc) (s : State) : Word :=
  match l with
  | .zp d => BitVec.ofNat 16 d.toNat
  | .zpx d => BitVec.ofNat 16 ((d.toNat + s.cpu.x.toNat) % 256)
  | .zpy d => BitVec.ofNat 16 ((d.toNat + s.cpu.y.toNat) % 256)
  | .abs a => a
  | .abx a => BitVec.ofNat 16 (a.toNat + s.cpu.x.toNat)
  | .aby a => BitVec.ofNat 16 (a.toNat + s.cpu.y.toNat)
  | .izx d => zpPointer (d + s.cpu.x) s
  | .izy d => BitVec.ofNat 16 ((zpPointer d s).toNat + s.cpu.y.toNat)

/-! ## Bus accesses

The accesses of each instruction's rule in the order the rule writes them (00_scope.md R13), from the state after the
operand fetches. They are written from the spec's pseudocode, apart from the machine's operations. -/

/-- One access to the CPU bus (R61). -/
inductive BusOp where
  | read (a : Word)
  | write (a : Word) (v : Byte)
  deriving DecidableEq, Repr

def BusOp.run (o : BusOp) (s : State) : State :=
  match o with
  | .read a => (memRead a s).2
  | .write a v => memWrite a v s

/-- A list of accesses, the first one first; what a read gives is discarded. -/
def busRun : List BusOp → State → State
  | [], s => s
  | o :: rest, s => busRun rest (o.run s)

/-- The ticks of one access: one, and 512 more for the OAM DMA a write to `$4014` runs (R62, R63, R450). -/
def BusOp.ticks : BusOp → Nat
  | .read _ => 1
  | .write a _ => if a = 0x4014 then 513 else 1

def busTicks (l : List BusOp) : Nat := (l.map BusOp.ticks).sum

/-- An indexed address leaves the page of its base (R116, R118). -/
abbrev crosses (base : Word) (idx : Byte) : Prop := 256 ≤ base.toNat % 256 + idx.toNat

/-- The dummy read of an indexed mode at the address whose high byte is not corrected: for the read kind on a page cross
only, for the write kind always (R116, R118). -/
def indexReads (k : Access) (base : Word) (idx : Byte) : List BusOp :=
  let un : Word := BitVec.ofNat 16 (base.toNat / 256 * 256 + (base.toNat + idx.toNat) % 256)
  match k with
  | .read => if crosses base idx then [.read un] else []
  | .write => [.read un]

/-- The reads of resolving an address (R113 to R118). -/
def locReads (k : Access) (l : Loc) (s : State) : List BusOp :=
  let z (n : Nat) : BusOp := .read (BitVec.ofNat 16 (n % 256))
  match l with
  | .zp _ => []
  | .zpx d => [z d.toNat]
  | .zpy d => [z d.toNat]
  | .abs _ => []
  | .abx a => indexReads k a s.cpu.x
  | .aby a => indexReads k a s.cpu.y
  | .izx d => [z d.toNat, z (d.toNat + s.cpu.x.toNat), z (d.toNat + s.cpu.x.toNat + 1)]
  | .izy d => [z d.toNat, z (d.toNat + 1)] ++ indexReads k (zpPointer d s) s.cpu.y

/-- The reads of a read-kind operand (R112 to R118). -/
def srcReads (o : Src) (s : State) : List BusOp :=
  match o with
  | .imm _ => []
  | .mem l => locReads .read l s ++ [.read (effAddr l s)]

/-- The byte a read-kind operand gives: the immediate, or what the bus gives for the effective address after the reads
of the mode. -/
def srcByte (o : Src) (s : State) : Byte :=
  match o with
  | .imm v => v
  | .mem l => (memRead (effAddr l s) (busRun (locReads .read l s) s)).1

/-- The accesses of a store of `v` (R243 to R245). -/
def storeBus (l : Loc) (v : Byte) (s : State) : List BusOp := locReads .write l s ++ [.write (effAddr l s) v]

/-- The byte a read-modify-write reads (46_shift_incdec.md). -/
def oldByte (l : Loc) (s : State) : Byte := (memRead (effAddr l s) (busRun (locReads .write l s) s)).1

/-- The accesses of a read-modify-write that leaves `new` (46_shift_incdec.md). -/
def modifyBus (l : Loc) (new : Byte) (s : State) : List BusOp :=
  let ea := effAddr l s
  locReads .write l s ++ [.read ea, .write ea (oldByte l s), .write ea new]

/-- The address of the stack byte `k` above (or, negative, below) SP, wrapping in page 1 (R22). -/
def stackByte (s : State) (k : Int) : Word := BitVec.ofNat 16 (256 + ((s.cpu.sp.toNat + k) % 256).toNat)

/-- The writes of pushing `vs`, first byte first (R11, R22). -/
def pushBus (s : State) (vs : List Byte) : List BusOp :=
  vs.zipIdx.map fun p => .write (stackByte s (-(p.2 : Int))) p.1

/-- The address a branch goes to (R109, R220): relative to the address after it, modulo 65536. -/
def branchTarget (d : Byte) (s : State) : Word := BitVec.ofInt 16 (s.cpu.pc.toNat + d.toInt)

/-- The dummy reads of a branch (R220). -/
def branchReads (taken : Bool) (d : Byte) (s : State) : List BusOp :=
  let pc := s.cpu.pc.toNat
  let t := (branchTarget d s).toNat
  if taken then
    .read s.cpu.pc :: if t / 256 = pc / 256 then [] else [.read (BitVec.ofNat 16 (pc / 256 * 256 + t % 256))]
  else []

/-- The second byte of a JMP indirect pointer, in the same page (R119). -/
def pointerHigh (p : Word) : Word := BitVec.ofNat 16 (p.toNat / 256 * 256 + (p.toNat + 1) % 256)

/-- `StatusForPush(b)` as the sum R25 writes. -/
def statusSum (c : Cpu) (b : Bool) : Byte :=
  BitVec.ofNat 8 (128 * c.n.toNat + 64 * c.v.toNat + 32 + 16 * b.toNat + 8 * c.d.toNat + 4 * c.i.toNat +
    2 * c.z.toNat + c.c.toNat)

/-- N and Z of a byte (R10). -/
def Cpu.withNZ (c : Cpu) (v : Byte) : Cpu := { c with n := decide (128 ≤ v.toNat), z := decide (v.toNat = 0) }

/-- The six flags of a pulled status byte (R25), bit by bit. -/
def Cpu.withStatus (c : Cpu) (v : Byte) : Cpu :=
  let bit (k : Nat) : Bool := decide (v.toNat / 2 ^ k % 2 = 1)
  { c with n := bit 7, v := bit 6, d := bit 3, i := bit 2, z := bit 1, c := bit 0 }

/-! ## The operand forms of the spec's tables, in their order, with zero operands -/

/-- The eight forms of class 01 (R104). -/
def forms01 : List Src :=
  [.imm 0, .mem (.zp 0), .mem (.zpx 0), .mem (.abs 0), .mem (.abx 0), .mem (.aby 0), .mem (.izx 0), .mem (.izy 0)]

/-- The forms of a shift or rotate (R300 to R303). -/
def formsShift : List Target := [.acc, .mem (.zp 0), .mem (.zpx 0), .mem (.abs 0), .mem (.abx 0)]

/-! ## Frames -/

/-- The memories and registers of the PPU that only a register write changes (R431 to R439), with CHR-RAM. -/
structure PpuKept (s t : State) : Prop where
  chrRam : t.chrRam = s.chrRam
  oam : t.ppu.oam = s.ppu.oam
  nametable : t.ppu.nametable = s.ppu.nametable
  palette : t.ppu.palette = s.ppu.palette
  ctrl : t.ppu.ctrl = s.ppu.ctrl
  mask : t.ppu.mask = s.ppu.mask
  oamAddr : t.ppu.oamAddr = s.ppu.oamAddr
  scrollX : t.ppu.scrollX = s.ppu.scrollX
  scrollY : t.ppu.scrollY = s.ppu.scrollY

/-- What no instruction changes but the fault of an undefined opcode: the configuration and the fault. -/
structure Kept (s t : State) : Prop where
  cfg : t.cfg = s.cfg
  fault : t.fault = s.fault

/-- What an instruction that only reads the bus leaves alone: every byte of RAM and PRG space as the bus reads it, the
PPU's memories and written registers, the mapper registers, the controller's strobe and the host's input, the
configuration, the fault. -/
structure ReadsOnly (s t : State) : Prop extends Kept s t, PpuKept s t where
  bytes : ∀ a, Plain a → peek t a = peek s a
  ram : t.ram = s.ram
  mapper : t.mapper = s.mapper
  strobe : t.ctl.strobe = s.ctl.strobe
  input : t.input = s.input

/-- The two RAM addresses name the same byte (R66). -/
def SameRamByte (a b : Word) : Prop := a.toNat % 0x800 = b.toNat % 0x800

/-- What an instruction whose last store is `v` to bus address `ea`, and which stores nowhere else, does to memory
(R65, R66, R72, R78): a RAM byte and its mirrors read `v`, every other byte of RAM reads as before; PRG space reads
as before unless the store goes to it, and its bytes never change; the PPU is changed only from its registers and
`$4014`, the controller only from `$4016`. -/
structure StoresOnly (ea : Word) (v : Byte) (s t : State) : Prop extends Kept s t where
  stored : ∀ a, InRam a → InRam ea → SameRamByte a ea → peek t a = v
  ramKept : ∀ a, InRam a → ¬(InRam ea ∧ SameRamByte a ea) → peek t a = peek s a
  romKept : ∀ a, InRom a → ¬InRom ea → peek t a = peek s a
  mapperKept : ¬InRom ea → t.mapper = s.mapper
  ppuKept : ¬(0x2000 ≤ ea.toNat ∧ ea.toNat < 0x4000) → ea ≠ 0x4014 → PpuKept s t
  controllerKept : ea ≠ 0x4016 → t.ctl.strobe = s.ctl.strobe ∧ t.input = s.input

/-- What pushes of the bytes `vs` leave in memory (R22): the first at `$0100 | SP`, each next one below it, wrapping
in page 1; every other byte as before. -/
structure PushesOnly (vs : List Byte) (s t : State) : Prop extends Kept s t, PpuKept s t where
  pushed : ∀ k, k < vs.length → some (peek t (stackByte s (-(k : Int)))) = vs[k]?
  ramKept : ∀ a, InRam a → (∀ k, k < vs.length → ¬SameRamByte a (stackByte s (-(k : Int)))) → peek t a = peek s a
  romKept : ∀ a, InRom a → peek t a = peek s a
  mapper : t.mapper = s.mapper
  strobe : t.ctl.strobe = s.ctl.strobe
  input : t.input = s.input

/-- The state with another APU and another audio port. -/
def State.withApu (s : State) (a : Apu) (p : AudioPort) : State := { s with apu := a, audio := p }

/-- The states differ at most in the APU and the audio port (R460). -/
def SameButApu (s t : State) : Prop := ∃ a p, t = s.withApu a p

/-! ## Tick counts -/

/-- The numbers of the table of R620, row by row: the least of each entry, 1 for an undefined opcode. -/
def tickTable : List Nat :=
  [7, 6, 1, 1, 3, 3, 5, 1, 3, 2, 2, 1, 4, 4, 6, 1] ++
  [2, 5, 1, 1, 4, 4, 6, 1, 2, 4, 2, 1, 4, 4, 7, 1] ++
  [6, 6, 1, 1, 3, 3, 5, 1, 4, 2, 2, 1, 4, 4, 6, 1] ++
  [2, 5, 1, 1, 4, 4, 6, 1, 2, 4, 2, 1, 4, 4, 7, 1] ++
  [6, 6, 1, 1, 3, 3, 5, 1, 3, 2, 2, 1, 3, 4, 6, 1] ++
  [2, 5, 1, 1, 4, 4, 6, 1, 2, 4, 2, 1, 4, 4, 7, 1] ++
  [6, 6, 1, 1, 3, 3, 5, 1, 4, 2, 2, 1, 5, 4, 6, 1] ++
  [2, 5, 1, 1, 4, 4, 6, 1, 2, 4, 2, 1, 4, 4, 7, 1] ++
  [2, 6, 2, 1, 3, 3, 3, 1, 2, 2, 2, 1, 4, 4, 4, 1] ++
  [2, 6, 1, 1, 4, 4, 4, 1, 2, 5, 2, 1, 1, 5, 1, 1] ++
  [2, 6, 2, 6, 3, 3, 3, 3, 2, 2, 2, 1, 4, 4, 4, 4] ++
  [2, 5, 1, 5, 4, 4, 4, 4, 2, 4, 2, 1, 4, 4, 4, 4] ++
  [2, 6, 2, 1, 3, 3, 5, 1, 2, 2, 2, 1, 4, 4, 6, 1] ++
  [2, 5, 1, 1, 4, 4, 6, 1, 2, 4, 2, 1, 4, 4, 7, 1] ++
  [2, 6, 2, 1, 3, 3, 5, 1, 2, 2, 2, 1, 4, 4, 6, 1] ++
  [2, 5, 1, 1, 4, 4, 6, 1, 2, 4, 2, 1, 4, 4, 7, 1]

/-- The table of R620, by opcode byte, without its page-cross, branch, DMA and NMI additions; an undefined opcode takes
the one tick of its fetch. -/
def opcodeTicks (op : Byte) : Nat :=
  tickTable.getD op.toNat 1

/-- The ticks of a branch after its displacement byte: none, one, or two across a page (R220). -/
def branchTicks (taken : Bool) (d : Byte) (s : State) : Nat :=
  if taken then if (branchTarget d s).toNat / 256 = s.cpu.pc.toNat / 256 then 1 else 2 else 0

/-- The ticks R620 adds to the table for this instruction in this state: a page cross of a read-kind indexed mode, a
taken branch, the OAM DMA of each write to `$4014`. -/
def addedTicks (i : Instr) (s : State) : Nat :=
  let one (base : Word) (idx : Byte) : Nat := if crosses base idx then 1 else 0
  let cross (l : Loc) : Nat :=
    match l with
    | .abx a => one a s.cpu.x
    | .aby a => one a s.cpu.y
    | .izy d => one (zpPointer d s) s.cpu.y
    | _ => 0
  let crossSrc (o : Src) : Nat :=
    match o with
    | .imm _ => 0
    | .mem l => cross l
  let dma (l : Loc) : Nat := if effAddr l s = 0x4014 then 512 else 0
  match i with
  | .bpl d => branchTicks (!s.cpu.n) d s
  | .bmi d => branchTicks s.cpu.n d s
  | .bvc d => branchTicks (!s.cpu.v) d s
  | .bvs d => branchTicks s.cpu.v d s
  | .bcc d => branchTicks (!s.cpu.c) d s
  | .bcs d => branchTicks s.cpu.c d s
  | .bne d => branchTicks (!s.cpu.z) d s
  | .beq d => branchTicks s.cpu.z d s
  | .lda o | .ldx o | .ldy o => crossSrc o
  | .adc o | .sbc o | .cmp o | .cpx o | .cpy o | .and o | .ora o | .eor o => crossSrc o
  | .sta l | .stx l | .sty l => dma l
  | .asl (.mem l) | .lsr (.mem l) | .rol (.mem l) | .ror (.mem l) | .inc l | .dec l => 2 * dma l
  | .nopAbx _ a => cross (.abx a)
  | .lax l => cross l
  | _ => 0

/-! ## The PPU's pixels and the APU's registers

Written from the spec's pseudocode and tables in numbers, apart from the machine's operations. -/

/-- Bit `k` of a byte as a number. -/
def byteBit (v : Byte) (k : Nat) : Nat := v.toNat / 2 ^ k % 2

/-- `idx` of the background pixel at `(x, y)`, clipped (R442, R432). -/
def bgPixelIndex (s : State) (x y : Nat) : Nat :=
  let p := s.ppu
  let wx := x + p.scrollX.toNat + 256 * byteBit p.ctrl 0
  let wy := y + p.scrollY.toNat + 240 * byteBit p.ctrl 1
  let base := 0x2000 + 0x400 * (wx / 256 % 2 + 2 * (wy / 240 % 2))
  let cx := wx % 256
  let cy := wy % 240
  let tile := ppuRead s (BitVec.ofNat 14 (base + cy / 8 * 32 + cx / 8))
  let row := byteBit p.ctrl 4 * 0x1000 + tile.toNat * 16 + cy % 8
  let lo := ppuRead s (BitVec.ofNat 14 row)
  let hi := ppuRead s (BitVec.ofNat 14 (row + 8))
  if byteBit p.mask 3 = 0 ∨ (x < 8 ∧ byteBit p.mask 1 = 0) then 0
  else byteBit lo (7 - cx % 8) + 2 * byteBit hi (7 - cx % 8)

/-- `sidx` of a slot at column `x`, clipped, 0 outside its window (R445, R432). -/
def spritePixelIndex (p : Ppu) (sl : SpriteSlot) (x : Nat) : Nat :=
  let x0 := sl.xPos.toNat
  if byteBit p.mask 4 = 0 ∨ (x < 8 ∧ byteBit p.mask 2 = 0) ∨ x < x0 ∨ x0 + 8 ≤ x then 0
  else
    let c := if byteBit sl.attr 6 = 1 then 7 - (x - x0) else x - x0
    byteBit sl.low (7 - c) + 2 * byteBit sl.high (7 - c)

/-- The sprite-zero hit at `(x, y)`: slot 0 is OAM entry 0, not behind the background, and its pixel and the
background's are both non-transparent (R446). -/
def spriteZeroHitAt (s : State) (x y : Nat) : Bool :=
  s.ppu.spr0OnLine &&
    s.ppu.spr.head?.any fun sl =>
      decide (spritePixelIndex s.ppu sl x ≠ 0 ∧ bgPixelIndex s x y ≠ 0 ∧ byteBit sl.attr 5 = 0)

/-- The rows of a sprite (R443). -/
def spriteRows (p : Ppu) : Nat := if byteBit p.ctrl 5 = 1 then 16 else 8

/-- Entry `n` of OAM qualifies on line `l` (R443). -/
def fitsLine (p : Ppu) (l n : Nat) : Bool :=
  let y := (memGet p.oam (4 * n)).toNat
  decide (y ≤ l ∧ l < y + spriteRows p)

/-- The four bytes of OAM entry `n` (R443). -/
def oamBytes (p : Ppu) (n : Nat) : SpriteEntry :=
  ⟨memGet p.oam (4 * n), memGet p.oam (4 * n + 1), memGet p.oam (4 * n + 2), memGet p.oam (4 * n + 3)⟩

/-- What secondary OAM holds after the evaluation on line `l`: the first eight qualifying entries (R443). -/
def firstEight (p : Ppu) (l : Nat) : List SpriteEntry :=
  (((List.range 64).filter (fitsLine p l)).take 8).map (oamBytes p)

/-- The shifter of an entry on line `l` (R444); an entry that no longer fits the line takes its row over the integers
(log 17). -/
def slotOf (s : State) (l : Nat) (e : SpriteEntry) : SpriteSlot :=
  let row0 : Int := l - e.yPos.toNat
  let row := if byteBit e.attr 7 = 1 then spriteRows s.ppu - 1 - row0 else row0
  let address : Int :=
    if byteBit s.ppu.ctrl 5 = 1 then
      byteBit e.tile 0 * 0x1000 + (e.tile.toNat / 2 * 2 + row / 8) * 16 + row % 8
    else byteBit s.ppu.ctrl 3 * 0x1000 + e.tile.toNat * 16 + row
  ⟨ppuRead s (BitVec.ofInt 14 address), ppuRead s (BitVec.ofInt 14 (address + 8)), e.xPos, e.attr⟩

/-- `LengthTable[0..31]` as R491 lists it. -/
def lengthsOfSpec : List Nat :=
  [10, 254, 20, 2, 40, 4, 80, 6, 160, 8, 60, 10, 14, 12, 26, 14, 12, 16, 24, 18, 48] ++
  [20, 96, 22, 192, 24, 72, 26, 16, 28, 32, 30]

/-- The write of `v` to each APU register and the APU it leaves (R462 to R468). That `$400F` loads whatever the halt bit
is reads R464 beside D28 (log 26); the triangle's position at `$400B` is the model's choice (log 27). -/
def apuWrites (a : Apu) (v : Byte) : List (Word × Apu) :=
  let n := v.toNat
  let bit (k : Nat) : Bool := decide (byteBit v k = 1)
  let env (e : Envelope) : Envelope := { e with loop := bit 5, constant := bit 4, volume := BitVec.ofNat 4 n }
  let low (q : BitVec 11) : BitVec 11 := BitVec.ofNat 11 (q.toNat / 256 * 256 + n)
  let high (q : BitVec 11) : BitVec 11 := BitVec.ofNat 11 (n % 8 * 256 + q.toNat % 256)
  let load (enabled halt : Bool) (old : Byte) : Byte :=
    if enabled = true ∧ halt = false then BitVec.ofNat 8 (lengthsOfSpec.getD (n / 8) 0) else old
  let dutyAndVolume (p : Pulse) : Pulse := { p with duty := BitVec.ofNat 2 (n / 64), env := env p.env }
  let sweepUnit (p : Pulse) : Pulse :=
    { p with sweep := ⟨bit 7, BitVec.ofNat 3 (n / 16), bit 3, BitVec.ofNat 3 n, true, p.sweep.div⟩ }
  let timerLow (p : Pulse) : Pulse := { p with period := low p.period }
  let timerHigh (p : Pulse) : Pulse :=
    { p with
      period := high p.period
      length := load p.enabled p.env.loop p.length
      pos := 0
      env := { p.env with start := true } }
  let t := a.triangle
  let z := a.noise
  let kept (k : Nat) (old : Byte) : Byte := if bit k then old else 0
  let framed : Apu :=
    { a with fiveStep := bit 7, irqInhibit := bit 6, fs := 0, frameFlag := a.frameFlag && !bit 6 }
  [(0x4000, { a with pulse1 := dutyAndVolume a.pulse1 }), (0x4001, { a with pulse1 := sweepUnit a.pulse1 }),
   (0x4002, { a with pulse1 := timerLow a.pulse1 }), (0x4003, { a with pulse1 := timerHigh a.pulse1 }),
   (0x4004, { a with pulse2 := dutyAndVolume a.pulse2 }), (0x4005, { a with pulse2 := sweepUnit a.pulse2 }),
   (0x4006, { a with pulse2 := timerLow a.pulse2 }), (0x4007, { a with pulse2 := timerHigh a.pulse2 }),
   (0x4008, { a with triangle := { t with control := bit 7, reloadValue := BitVec.ofNat 7 n } }), (0x4009, a),
   (0x400A, { a with triangle := { t with period := low t.period } }),
   (0x400B,
    { a with
      triangle :=
        { t with period := high t.period, length := load t.enabled t.control t.length, reloadFlag := true } }),
   (0x400C, { a with noise := { z with env := env z.env } }), (0x400D, a),
   (0x400E, { a with noise := { z with short := bit 7, periodIndex := BitVec.ofNat 4 n } }),
   (0x400F,
    { a with
      noise := { z with length := load z.enabled false z.length, env := { z.env with start := true } } })] ++
  [(0x4010, a), (0x4011, a), (0x4012, a), (0x4013, a),
   (0x4015,
    { a with
      pulse1 := { a.pulse1 with enabled := bit 0, length := kept 0 a.pulse1.length }
      pulse2 := { a.pulse2 with enabled := bit 1, length := kept 1 a.pulse2.length }
      triangle := { t with enabled := bit 2, length := kept 2 t.length }
      noise := { z with enabled := bit 3, length := kept 3 z.length } }),
   (0x4017, if bit 7 then framed.quarter.half else framed)]

/-- The physical table that logical table `t` shows: the cartridge's mirroring, or MMC1's control bits 1:0 (R439, R476). -/
def tableShown (s : State) (t : Nat) : Nat :=
  match s.mapper with
  | .mmc1 m => [0, 1, t % 2, t / 2].getD (m.control.toNat % 4) 0
  | _ => if s.cfg.mirroring = .vertical then t % 2 else t / 2

/-- Where a PPU address leads: the pattern tables, a byte of the two physical nametables, or a palette entry (R439).
Two addresses are mirrors of each other exactly when they lead to the same place. -/
def ppuPlace (s : State) (k : Nat) : Nat × Nat :=
  if k < 0x2000 then (0, k)
  else if k < 0x3F00 then (1, 1024 * tableShown s (k / 1024 % 4) + k % 1024)
  else (2, if k % 4 = 0 then k % 16 else k % 32)

/-! ## Positions -/

/-- The PPU's position as a number of dots since `(0, 0)` (R440). -/
def Ppu.dotsIntoFrame (p : Ppu) : Nat := p.line * 341 + p.dot

/-- The state after `k` fetches (R11, R23). -/
def fetchMany : Nat → State → State
  | 0, s => s
  | k + 1, s => fetchMany k (fetch s).2

/-- How many bytes the step fetches before it executes an instruction: all of them, but for JSR's last (R202). -/
def fetchedBytes (i : Instr) : Nat :=
  match i with
  | .jsr _ _ => 2
  | _ => (encode i).length

end Sys2Proof.Machine
end

