-- ==== Sys2Proof/Certificates/Slice0/Obligations.lean ====
section
/-! DEFINITION. The statements for the provers. The state of an instruction's statement is the one after its operand
fetches, with `pc` at the next instruction (log 8). `withNZ`, `srcByte`, `effAddr`, the bus lists and the frames are those
of Safety.lean, written from the spec apart from the machine. -/

open Sys2Proof Sys2Proof.Machine

/-! ## Encoding -/

/-- Decoding the bytes of a well-formed instruction gives it back, with what follows it (R101 to R109). That an undefined
opcode takes one byte is the model's choice (log 28). -/
def Obligations.EncodeThenDecode : Prop :=
  ∀ (i : Instr) (rest : List Byte), i.wf = true → decode (encode i ++ rest) = .ok (i, rest)

/-- What the decoder reads is well-formed and is exactly the bytes consumed: no bit is dropped (R123, R127). That an
undefined opcode takes one byte is the model's choice (log 28). -/
def Obligations.DecodeThenEncode : Prop :=
  ∀ (bytes : List Byte) (i : Instr) (rest : List Byte),
    decode bytes = .ok (i, rest) → i.wf = true ∧ encode i ++ rest = bytes

/-- Every byte begins an instruction, and the undefined opcodes are exactly the 72 of R126. -/
def Obligations.EveryOpcodeByteDecodes : Prop :=
  undefBytes.length = 72 ∧ undefBytes.Nodup ∧
  ∀ (op b1 b2 : Byte) (rest : List Byte), ∃ i n,
    n ≤ 2 ∧ decode (op :: b1 :: b2 :: rest) = .ok (i, (b1 :: b2 :: rest).drop n) ∧
      (i = .undef op ↔ op ∈ undefBytes) ∧ ((∃ x, i = .undef x) ↔ op ∈ undefBytes)

/-- Words of the spec decode to the instruction they stand for (the examples of files 40 to 47). That the undefined opcode
`$02` takes one byte is the model's choice (log 28). -/
def Obligations.SpecWordsDecode : Prop :=
  decode [0xAA#8] = .ok (.tax, []) ∧
  decode [0x4C#8, 0x34#8, 0x12#8] = .ok (.jmp 0x1234, []) ∧
  decode [0x10#8, 0x7F#8] = .ok (.bpl 0x7F, []) ∧
  decode [0xBD#8, 0xF0#8, 0x12#8] = .ok (.lda (.mem (.abx 0x12F0)), []) ∧
  decode [0x91#8, 0x20#8] = .ok (.sta (.izy 0x20), []) ∧
  decode [0x69#8, 0x10#8] = .ok (.adc (.imm 0x10), []) ∧
  decode [0x24#8, 0x10#8] = .ok (.bit (.zp 0x10), []) ∧
  decode [0x0A#8] = .ok (.asl .acc, []) ∧
  decode [0xF6#8, 0xFF#8] = .ok (.inc (.zpx 0xFF), []) ∧
  decode [0xA3#8, 0x10#8] = .ok (.lax (.izx 0x10), []) ∧
  decode [0x02#8] = .ok (.undef 0x02, [])

/-! ## The step -/

/-- When the bytes at `pc` are those of a well-formed instruction in plain memory, the step is `exec` of it after the
operand fetches, then the NMI check; the fetches move `pc`, tick once each and change no memory (R100, R23). -/
def Obligations.StepRunsDecodedInstruction : Prop :=
  ∀ (s : State) (i : Instr), s.fault = none → i.wf = true →
    (∀ k, k < (encode i).length →
      Plain (s.cpu.pc + BitVec.ofNat 16 k) ∧ some (peek s (s.cpu.pc + BitVec.ofNat 16 k)) = (encode i)[k]?) →
    (fetchMany (fetchedBytes i) s).cpu = { s.cpu with pc := s.cpu.pc + BitVec.ofNat 16 (fetchedBytes i) } ∧
    (fetchMany (fetchedBytes i) s).cycles = s.cycles + fetchedBytes i ∧
    ReadsOnly s (fetchMany (fetchedBytes i) s) ∧
    ∃ t, exec i (fetchMany (fetchedBytes i) s) = .next t ∧ step s = .next (nmiCheck t)

/-- An undefined opcode byte sets the fault, with the byte and its address, after the one tick of its fetch, with no NMI
check; a step that fetches any other byte raises nothing (R337, R401, R414). -/
def Obligations.FaultOnlyFromUndefinedOpcode : Prop :=
  ∀ s : State, s.fault = none →
    ((fetch s).1 ∈ undefBytes →
      step s = .next { (fetch s).2 with fault := some (.unimplementedOpcode (fetch s).1 s.cpu.pc) } ∧
      (fetch s).2.cycles = s.cycles + 1 ∧ (fetch s).2.cpu = { s.cpu with pc := s.cpu.pc + 1 }) ∧
    ((fetch s).1 ∉ undefBytes → ∃ t, step s = .next t ∧ t.fault = none)

/-- The undefined opcodes' own effect: the fault is set and every other component stays (R337, R400). That the encoding is
the one byte is the model's choice (log 28). -/
def Obligations.UndefinedOpcodeSetsFault : Prop :=
  ∀ (op : Byte) (s : State), op ∈ undefBytes → encode (.undef op) = [op] ∧
    exec (.undef op) s = .next { s with fault := some (.unimplementedOpcode op (s.cpu.pc - 1)) }

/-- Every step and every instruction answers a next state; only the 72 undefined opcodes make it one with a fault (R401),
and after a fault every step is the identity, the model's choice among those of R337 (e) (log 6). -/
def Obligations.EveryInstructionCompletes : Prop :=
  (∀ s : State, ∃ t, step s = .next t) ∧
  (∀ (i : Instr) (s : State), ∃ t, exec i s = .next t ∧ ((∀ op, i ≠ .undef op) → t.fault = s.fault)) ∧
  ∀ s : State, s.fault ≠ none → step s = .next s ∧ ∀ k, runSteps k s = s

/-- The ticks of a step are those of the table of R620 with its additions. -/
def Obligations.StepTicksFollowTable : Prop :=
  ∀ (s : State) (i : Instr) (rest : List Byte), s.fault = none →
    decode [(fetch s).1, (fetch (fetch s).2).1, (fetch (fetch (fetch s).2).2).1] = .ok (i, rest) →
    ∃ t, exec i (fetchMany (fetchedBytes i) s) = .next t ∧ step s = .next (nmiCheck t) ∧
      (nmiCheck t).cycles =
        s.cycles + opcodeTicks (fetch s).1 + addedTicks i (fetchMany (fetchedBytes i) s) +
          if t.fault = none ∧ t.nmiQueued then 7 else 0

/-! ## Invariants -/

/-- Every step keeps the invariant: canonical memories, the PPU's and the mapper's ranges, the NMI edge detector, the
audio buffer, the LFSR (R36, R37, R441, R461, R476, R495). -/
def Obligations.StepKeepsInvariant : Prop :=
  ∀ s t : State, Inv s → step s = .next t → Inv t

/-- The invariant holds after reset, with any cartridge; `State.reset` is the reset of the blank cartridge (log 1). -/
def Obligations.ResetMeetsInvariant : Prop :=
  (∀ s : State, Inv (hostReset s)) ∧ Inv State.reset ∧ hostReset State.reset = State.reset

/-- No step changes the cartridge, its ROM bytes or its mapper kind (R7, R40). -/
def Obligations.ConfigurationNeverChanges : Prop :=
  ∀ s t : State, step s = .next t → t.cfg = s.cfg ∧ t.mapper.kind = s.mapper.kind

/-- No instruction un-queues an NMI: only the service clears `nmi_queued` (R33, R411). -/
def Obligations.QueuedNmiStaysQueued : Prop :=
  ∀ (i : Instr) (s t : State), s.nmiQueued = true → exec i s = .next t → t.nmiQueued = true

/-- Nothing in the APU is visible to the CPU: two states that differ in the APU and the audio port alone step to two such
states (R460). -/
def Obligations.ApuInvisibleToCpu : Prop :=
  ∀ s t : State, SameButApu s t → ∃ u v, step s = .next u ∧ step t = .next v ∧ SameButApu u v

/-! ## Single-byte instructions -/

/-- CLC to SED: the dummy read, one flag, nothing else (R151 to R157). -/
def Obligations.FlagInstructions : Prop :=
  ∀ s : State, ∀ r ∈
    [(Instr.clc, (0x18 : Byte), { s.cpu with c := false }), (.sec, 0x38, { s.cpu with c := true }),
     (.cli, 0x58, { s.cpu with i := false }), (.sei, 0x78, { s.cpu with i := true }),
     (.clv, 0xB8, { s.cpu with v := false }), (.cld, 0xD8, { s.cpu with d := false }),
     (.sed, 0xF8, { s.cpu with d := true })],
    encode r.1 = [r.2.1] ∧ ∃ t, exec r.1 s = .next t ∧ t = (busRun [.read s.cpu.pc] s).setCpu r.2.2 ∧
      t.cycles = s.cycles + 1 ∧ ReadsOnly s t

/-- TAX to TXS: the dummy read, the value moved, N and Z from it but for TXS (R158 to R163). -/
def Obligations.TransferInstructions : Prop :=
  ∀ s : State, ∀ r ∈
    [(Instr.tax, (0xAA : Byte), { s.cpu with x := s.cpu.a }.withNZ s.cpu.a),
     (.tay, 0xA8, { s.cpu with y := s.cpu.a }.withNZ s.cpu.a),
     (.txa, 0x8A, { s.cpu with a := s.cpu.x }.withNZ s.cpu.x),
     (.tya, 0x98, { s.cpu with a := s.cpu.y }.withNZ s.cpu.y),
     (.tsx, 0xBA, { s.cpu with x := s.cpu.sp }.withNZ s.cpu.sp),
     (.txs, 0x9A, { s.cpu with sp := s.cpu.x })],
    encode r.1 = [r.2.1] ∧ ∃ t, exec r.1 s = .next t ∧ t = (busRun [.read s.cpu.pc] s).setCpu r.2.2 ∧
      t.cycles = s.cycles + 1 ∧ ReadsOnly s t

/-- INX, INY, DEX, DEY: modulo 256, N and Z, never C or V (R168 to R171). -/
def Obligations.RegisterStepInstructions : Prop :=
  ∀ s : State,
    let up (r : Byte) : Byte := BitVec.ofNat 8 (r.toNat + 1)
    let down (r : Byte) : Byte := BitVec.ofNat 8 (r.toNat + 255)
    ∀ r ∈
    [(Instr.inx, (0xE8 : Byte), { s.cpu with x := up s.cpu.x }.withNZ (up s.cpu.x)),
     (.iny, 0xC8, { s.cpu with y := up s.cpu.y }.withNZ (up s.cpu.y)),
     (.dex, 0xCA, { s.cpu with x := down s.cpu.x }.withNZ (down s.cpu.x)),
     (.dey, 0x88, { s.cpu with y := down s.cpu.y }.withNZ (down s.cpu.y))],
    encode r.1 = [r.2.1] ∧ ∃ t, exec r.1 s = .next t ∧ t = (busRun [.read s.cpu.pc] s).setCpu r.2.2 ∧
      t.cycles = s.cycles + 1 ∧ ReadsOnly s t

/-- The NOPs of one byte: the dummy read and nothing else (R172, R330). -/
def Obligations.OneByteNops : Prop :=
  ∀ s : State, ∀ r ∈ (Instr.nop, (0xEA : Byte)) :: nopImpBytes.map fun op => (.nopImp op, op),
    encode r.1 = [r.2] ∧ ∃ t, exec r.1 s = .next t ∧ t = busRun [.read s.cpu.pc] s ∧ t.cpu = s.cpu ∧
      t.cycles = s.cycles + 1 ∧ ReadsOnly s t

/-- The unofficial NOPs with an operand: the bus accesses of the read kind of their mode, the data discarded (R331 to
R335). -/
def Obligations.OperandNops : Prop :=
  ∀ (s : State) (op d : Byte) (a : Word), ∀ r ∈
    [(Instr.nopImm op d, op ∈ nopImmBytes, [op, d], ([] : List BusOp)),
     (.nopZp op d, op ∈ nopZpBytes, [op, d], srcReads (.mem (.zp d)) s),
     (.nopZpx op d, op ∈ nopZpxBytes, [op, d], srcReads (.mem (.zpx d)) s),
     (.nopAbs a, True, [0x0C, loByte a, hiByte a], srcReads (.mem (.abs a)) s),
     (.nopAbx op a, op ∈ nopAbxBytes, [op, loByte a, hiByte a], srcReads (.mem (.abx a)) s)],
    r.2.1 → encode r.1 = r.2.2.1 ∧ ∃ t, exec r.1 s = .next t ∧ t = busRun r.2.2.2 s ∧ t.cpu = s.cpu ∧
      t.cycles = s.cycles + busTicks r.2.2.2 ∧ ReadsOnly s t

/-- PHA and PHP: the byte at `$0100 | SP`, SP less one, no flag; PHP pushes bits 5 and 4 set (R164, R165, R25). -/
def Obligations.PushInstructions : Prop :=
  ∀ s : State, ∀ r ∈ [(Instr.pha, (0x48 : Byte), s.cpu.a), (.php, 0x08, statusSum s.cpu true)],
    encode r.1 = [r.2.1] ∧ ∃ t, exec r.1 s = .next t ∧
      t = (busRun [.read s.cpu.pc, .write (stackByte s 0) r.2.2] s).setCpu { s.cpu with sp := s.cpu.sp - 1 } ∧
      t.cycles = s.cycles + 2 ∧ (Memory.wf 2048 s.ram → PushesOnly [r.2.2] s t)

/-- PLA and PLP: the byte above SP, SP plus one; PLA sets N and Z from it, PLP takes the six flags from it (R166, R167,
R25). -/
def Obligations.PullInstructions : Prop :=
  ∀ s : State,
    let v := peek s (stackByte s 1)
    ∀ r ∈ [(Instr.pla, (0x68 : Byte), { s.cpu with a := v, sp := s.cpu.sp + 1 }.withNZ v),
           (.plp, 0x28, { s.cpu with sp := s.cpu.sp + 1 }.withStatus v)],
    encode r.1 = [r.2.1] ∧ ∃ t, exec r.1 s = .next t ∧
      t = (busRun [.read s.cpu.pc, .read (stackByte s 0), .read (stackByte s 1)] s).setCpu r.2.2 ∧
      t.cycles = s.cycles + 3 ∧ ReadsOnly s t

/-- PHP then PLP leaves all six flags and SP as they were (R167). -/
def Obligations.PhpThenPlpRestoresFlags : Prop :=
  ∀ s : State, Memory.wf 2048 s.ram → ∃ t u, exec .php s = .next t ∧ exec .plp t = .next u ∧ u.cpu = s.cpu

/-- Pulling a pushed word returns it, and SP returns to its value before the push (R203, R22). -/
def Obligations.PushWordThenPullWord : Prop :=
  ∀ (w : Word) (s : State), Memory.wf 2048 s.ram →
    (pullWord (pushWord w s)).1 = w ∧ (pullWord (pushWord w s)).2.cpu = s.cpu ∧
      (pushWord w s).cpu.sp = s.cpu.sp - 2 ∧ PushesOnly [hiByte w, loByte w] s (pushWord w s)

/-! ## Jumps, calls, returns, interrupts -/

/-- JMP, and JMP indirect, whose pointer's second byte is in the same page (R200, R201). -/
def Obligations.JmpInstructions : Prop :=
  (∀ (s : State) (a : Word), encode (.jmp a) = [0x4C, loByte a, hiByte a] ∧
    ∃ t, exec (.jmp a) s = .next t ∧ t = s.setCpu { s.cpu with pc := a } ∧ ReadsOnly s t) ∧
  ∀ (s : State) (p : Word), encode (.jmpInd p) = [0x6C, loByte p, hiByte p] ∧
    let lo := (memRead p s).1
    let hi := (memRead (pointerHigh p) (busRun [.read p] s)).1
    (Plain p → lo = peek s p) ∧ (Plain (pointerHigh p) → hi = peek s (pointerHigh p)) ∧
    ∃ t, exec (.jmpInd p) s = .next t ∧
      t = (busRun [.read p, .read (pointerHigh p)] s).setCpu { s.cpu with pc := mkWord hi lo } ∧
      t.cycles = s.cycles + 2 ∧ ReadsOnly s t

/-- JSR, with `pc` at its third byte: it pushes that address, and reads the byte there only after the pushes (R202). -/
def Obligations.JsrPushesAndJumps : Prop :=
  ∀ (s : State) (lo hi : Byte), encode (.jsr lo hi) = [0x20, lo, hi] ∧
    let pushes := [.read (stackByte s 0)] ++ pushBus s [hiByte s.cpu.pc, loByte s.cpu.pc]
    let high := (memRead s.cpu.pc (busRun pushes s)).1
    (Plain s.cpu.pc → ¬(InRam s.cpu.pc ∧ ∃ k : Nat, k < 2 ∧ SameRamByte s.cpu.pc (stackByte s (-(k : Int)))) →
      high = peek s s.cpu.pc) ∧
    ∃ t, exec (.jsr lo hi) s = .next t ∧
      t = (busRun (pushes ++ [.read s.cpu.pc]) s).setCpu { s.cpu with sp := s.cpu.sp - 2, pc := mkWord high lo } ∧
      t.cycles = s.cycles + 4 ∧ (Memory.wf 2048 s.ram → PushesOnly [hiByte s.cpu.pc, loByte s.cpu.pc] s t)

/-- RTS: the pulled word plus one, after a dummy read at the pulled address (R203). -/
def Obligations.RtsReturnsPastWord : Prop :=
  ∀ s : State, encode .rts = [0x60] ∧
    let w := mkWord (peek s (stackByte s 2)) (peek s (stackByte s 1))
    ∃ t, exec .rts s = .next t ∧
      t = (busRun [.read s.cpu.pc, .read (stackByte s 0), .read (stackByte s 1), .read (stackByte s 2), .read w] s).setCpu
        { s.cpu with sp := s.cpu.sp + 2, pc := w + 1 } ∧
      t.cycles = s.cycles + 5 ∧ ReadsOnly s t

/-- RTS after JSR goes on past the JSR, with every register as before (R202, R203). -/
def Obligations.JsrThenRtsReturns : Prop :=
  ∀ (s : State) (lo hi : Byte), Memory.wf 2048 s.ram →
    ∃ t u, exec (.jsr lo hi) s = .next t ∧ exec .rts t = .next u ∧ u.cpu = { s.cpu with pc := s.cpu.pc + 1 }

/-- RTI: the six flags, then `pc` with no increment (R204, R420). -/
def Obligations.RtiRestoresFlagsAndPc : Prop :=
  ∀ s : State, encode .rti = [0x40] ∧
    let w := mkWord (peek s (stackByte s 3)) (peek s (stackByte s 2))
    ∃ t, exec .rti s = .next t ∧
      t = (busRun [.read s.cpu.pc, .read (stackByte s 0), .read (stackByte s 1), .read (stackByte s 2),
          .read (stackByte s 3)] s).setCpu
        ({ s.cpu with sp := s.cpu.sp + 3, pc := w }.withStatus (peek s (stackByte s 1))) ∧
      t.cycles = s.cycles + 5 ∧ ReadsOnly s t

/-- BRK: skip the padding byte, push `pc` and the status with bit 4 set, set I, go through `$FFFE` (R205, R417). -/
def Obligations.BrkEntersThroughVector : Prop :=
  ∀ s : State, encode .brk = [0x00] ∧
    let pc2 := s.cpu.pc + 1
    let bytes := [hiByte pc2, loByte pc2, statusSum s.cpu true]
    ∃ t, exec .brk s = .next t ∧
      t = (busRun ([.read s.cpu.pc] ++ pushBus s bytes ++ [.read 0xFFFE, .read 0xFFFF]) s).setCpu
        { s.cpu with sp := s.cpu.sp - 3, pc := mkWord (peek s 0xFFFF) (peek s 0xFFFE), i := true } ∧
      t.cycles = s.cycles + 6 ∧ (Memory.wf 2048 s.ram → PushesOnly bytes s t)

/-- The NMI service, whatever I holds: two dummy reads, push `pc` and the status with bit 4 clear, `pc` from `$FFFA`, I
set, 7 ticks; with nothing queued the check does nothing (R415, R416). -/
def Obligations.NmiServiceEntry : Prop :=
  ∀ s : State, s.fault = none →
    (s.nmiQueued = false → nmiCheck s = s) ∧
    (s.nmiQueued = true →
      let s1 := { s with nmiQueued := false }
      let bytes := [hiByte s.cpu.pc, loByte s.cpu.pc, statusSum s.cpu false]
      nmiCheck s =
        (busRun ([.read s.cpu.pc, .read s.cpu.pc] ++ pushBus s bytes ++ [.read 0xFFFA, .read 0xFFFB]) s1).setCpu
          { s.cpu with sp := s.cpu.sp - 3, pc := mkWord (peek s 0xFFFB) (peek s 0xFFFA), i := true } ∧
      (nmiCheck s).cycles = s.cycles + 7 ∧ (Memory.wf 2048 s.ram → PushesOnly bytes s (nmiCheck s)))

/-- RTI from the first instruction of a handler undoes the interrupt's entry, for BRK and NMI alike: every register and
flag is as it was (R204, R416, R420). -/
def Obligations.RtiUndoesInterruptEntry : Prop :=
  ∀ (s : State) (b : Bool) (v : Word), Memory.wf 2048 s.ram →
    ∃ u, exec .rti (takeInterrupt b v s) = .next u ∧ u.cpu = s.cpu

/-- The eight branches: taken when the flag has its polarity, to `pc` plus the signed displacement modulo 65536, with
their dummy reads and 0, 1 or 2 ticks (R220 to R228). -/
def Obligations.ConditionalBranches : Prop :=
  ∀ (s : State) (d : Byte), ∀ r ∈
    [(Instr.bpl d, (0x10 : Byte), !s.cpu.n), (.bmi d, 0x30, s.cpu.n), (.bvc d, 0x50, !s.cpu.v), (.bvs d, 0x70, s.cpu.v),
     (.bcc d, 0x90, !s.cpu.c), (.bcs d, 0xB0, s.cpu.c), (.bne d, 0xD0, !s.cpu.z), (.beq d, 0xF0, s.cpu.z)],
    encode r.1 = [r.2.1, d] ∧ ∃ t, exec r.1 s = .next t ∧
      t = (busRun (branchReads r.2.2 d s) s).setCpu
        { s.cpu with pc := if r.2.2 then branchTarget d s else s.cpu.pc } ∧
      t.cycles = s.cycles + branchTicks r.2.2 d s ∧ ReadsOnly s t

/-! ## Loads and stores -/

/-- LDA, LDX, LDY, LAX: the register, N and Z from the operand, after the bus accesses of the mode (R240 to R242, R336). -/
def Obligations.LoadInstructions : Prop :=
  (forms01.map fun o => opcodeOf (.lda o)) = [0xA9#8, 0xA5, 0xB5, 0xAD, 0xBD, 0xB9, 0xA1, 0xB1].map some ∧
  ([.imm 0, .mem (.zp 0), .mem (.zpy 0), .mem (.abs 0), .mem (.aby 0)].map fun o => opcodeOf (.ldx o)) =
    [0xA2#8, 0xA6, 0xB6, 0xAE, 0xBE].map some ∧
  ([.imm 0, .mem (.zp 0), .mem (.zpx 0), .mem (.abs 0), .mem (.abx 0)].map fun o => opcodeOf (.ldy o)) =
    [0xA0#8, 0xA4, 0xB4, 0xAC, 0xBC].map some ∧
  ([.zp 0, .zpy 0, .abs 0, .aby 0, .izx 0, .izy 0].map fun l => opcodeOf (.lax l)) =
    [0xA7#8, 0xB7, 0xAF, 0xBF, 0xA3, 0xB3].map some ∧
  ∀ (s : State) (o : Src) (l : Loc),
    let m := srcByte o s
    let ml := srcByte (.mem l) s
    ∀ r ∈ [(Instr.lda o, o, { s.cpu with a := m }.withNZ m), (.ldx o, o, { s.cpu with x := m }.withNZ m),
           (.ldy o, o, { s.cpu with y := m }.withNZ m), (.lax l, .mem l, { s.cpu with a := ml, x := ml }.withNZ ml)],
    ∃ t, exec r.1 s = .next t ∧ t = (busRun (srcReads r.2.1 s) s).setCpu r.2.2 ∧
      t.cycles = s.cycles + busTicks (srcReads r.2.1 s) ∧ ReadsOnly s t

/-- STA, STX, STY: the register at the effective address, after the bus accesses of the write kind; no register or flag
changes (R243 to R245). -/
def Obligations.StoreInstructions : Prop :=
  ([.zp 0, .zpx 0, .abs 0, .abx 0, .aby 0, .izx 0, .izy 0].map fun l => opcodeOf (.sta l)) =
    [0x85#8, 0x95, 0x8D, 0x9D, 0x99, 0x81, 0x91].map some ∧
  ([.zp 0, .zpy 0, .abs 0].map fun l => opcodeOf (.stx l)) = [0x86#8, 0x96, 0x8E].map some ∧
  ([.zp 0, .zpx 0, .abs 0].map fun l => opcodeOf (.sty l)) = [0x84#8, 0x94, 0x8C].map some ∧
  ∀ (s : State) (l : Loc), ∀ r ∈ [(Instr.sta l, s.cpu.a), (.stx l, s.cpu.x), (.sty l, s.cpu.y)],
    ∃ t, exec r.1 s = .next t ∧ t = busRun (storeBus l r.2 s) s ∧ t.cpu = s.cpu ∧
      t.cycles = s.cycles + busTicks (storeBus l r.2 s) ∧
      (Memory.wf 2048 s.ram → StoresOnly (effAddr l s) r.2 s t)

/-- The operand of a read-kind instruction in plain memory is the byte at its effective address, and fetching it changes no
register and no memory (R112 to R118, R122). -/
def Obligations.OperandInPlainMemory : Prop :=
  ∀ (s : State) (l : Loc) (v : Byte),
    readSrc (.imm v) s = (v, s) ∧
    (Plain (effAddr l s) → (readSrc (.mem l) s).1 = peek s (effAddr l s)) ∧
    ReadsOnly s (readSrc (.mem l) s).2 ∧ (readSrc (.mem l) s).2.cpu = s.cpu ∧
    (readSrc (.mem l) s).2.cycles = s.cycles + busTicks (srcReads (.mem l) s)

/-! ## Arithmetic and logic -/

/-- ADC: binary whatever D is; C is the carry out of bit 7, V the signed overflow (R260). -/
def Obligations.AdcAddsWithCarry : Prop :=
  (forms01.map fun o => opcodeOf (.adc o)) = [0x69#8, 0x65, 0x75, 0x6D, 0x7D, 0x79, 0x61, 0x71].map some ∧
  ∀ (s : State) (o : Src),
    let m := srcByte o s
    let sum := s.cpu.a.toNat + m.toNat + s.cpu.c.toNat
    let signed := s.cpu.a.toInt + m.toInt + s.cpu.c.toNat
    let r : Byte := BitVec.ofNat 8 sum
    ∃ t, exec (.adc o) s = .next t ∧
      t = (busRun (srcReads o s) s).setCpu
        ({ s.cpu with a := r, c := decide (255 < sum), v := decide (signed < -128 ∨ 127 < signed) }.withNZ r) ∧
      t.cycles = s.cycles + busTicks (srcReads o s) ∧ ReadsOnly s t

/-- SBC: binary whatever D is; C is 1 when no borrow was needed, V the signed overflow (R261). -/
def Obligations.SbcSubtractsWithBorrow : Prop :=
  (forms01.map fun o => opcodeOf (.sbc o)) = [0xE9#8, 0xE5, 0xF5, 0xED, 0xFD, 0xF9, 0xE1, 0xF1].map some ∧
  ∀ (s : State) (o : Src),
    let m := srcByte o s
    let borrow : Int := 1 - s.cpu.c.toNat
    let diff : Int := s.cpu.a.toNat - m.toNat - borrow
    let signed := s.cpu.a.toInt - m.toInt - borrow
    let r : Byte := BitVec.ofInt 8 diff
    ∃ t, exec (.sbc o) s = .next t ∧
      t = (busRun (srcReads o s) s).setCpu
        ({ s.cpu with a := r, c := decide (0 ≤ diff), v := decide (signed < -128 ∨ 127 < signed) }.withNZ r) ∧
      t.cycles = s.cycles + busTicks (srcReads o s) ∧ ReadsOnly s t

/-- CMP, CPX, CPY: C when the register is at least the operand, Z when equal, N bit 7 of the difference (R262 to R264). -/
def Obligations.CompareInstructions : Prop :=
  (forms01.map fun o => opcodeOf (.cmp o)) = [0xC9#8, 0xC5, 0xD5, 0xCD, 0xDD, 0xD9, 0xC1, 0xD1].map some ∧
  ([.imm 0, .mem (.zp 0), .mem (.abs 0)].map fun o => opcodeOf (.cpx o)) = [0xE0#8, 0xE4, 0xEC].map some ∧
  ([.imm 0, .mem (.zp 0), .mem (.abs 0)].map fun o => opcodeOf (.cpy o)) = [0xC0#8, 0xC4, 0xCC].map some ∧
  ∀ (s : State) (o : Src),
    let m := (srcByte o s).toNat
    ∀ r ∈ [(Instr.cmp o, s.cpu.a.toNat), (.cpx o, s.cpu.x.toNat), (.cpy o, s.cpu.y.toNat)],
    ∃ t, exec r.1 s = .next t ∧
      t = (busRun (srcReads o s) s).setCpu
        { s.cpu with c := decide (m ≤ r.2), z := decide (r.2 = m), n := decide (128 ≤ (r.2 + 256 - m) % 256) } ∧
      t.cycles = s.cycles + busTicks (srcReads o s) ∧ ReadsOnly s t

/-- AND, ORA, EOR: bit by bit, N and Z from the result, C and V as before (R280 to R282). -/
def Obligations.LogicInstructions : Prop :=
  (forms01.map fun o => opcodeOf (.and o)) = [0x29#8, 0x25, 0x35, 0x2D, 0x3D, 0x39, 0x21, 0x31].map some ∧
  (forms01.map fun o => opcodeOf (.ora o)) = [0x09#8, 0x05, 0x15, 0x0D, 0x1D, 0x19, 0x01, 0x11].map some ∧
  (forms01.map fun o => opcodeOf (.eor o)) = [0x49#8, 0x45, 0x55, 0x4D, 0x5D, 0x59, 0x41, 0x51].map some ∧
  ∀ (s : State) (o : Src), ∀ r ∈
    [(Instr.and o, fun x y : Bool => x && y), (.ora o, fun x y => x || y), (.eor o, fun x y => xor x y)],
    ∃ t v, exec r.1 s = .next t ∧ (∀ k, k < 8 → v.getLsbD k = r.2 (s.cpu.a.getLsbD k) ((srcByte o s).getLsbD k)) ∧
      t = (busRun (srcReads o s) s).setCpu ({ s.cpu with a := v }.withNZ v) ∧
      t.cycles = s.cycles + busTicks (srcReads o s) ∧ ReadsOnly s t

/-- BIT: Z from the AND, N and V bits 7 and 6 of the memory byte, A as before (R283). -/
def Obligations.BitTest : Prop :=
  opcodeOf (.bit (.zp 0)) = some 0x24 ∧ opcodeOf (.bit (.abs 0)) = some 0x2C ∧
  ∀ (s : State) (l : Loc),
    let m := srcByte (.mem l) s
    ∃ t, exec (.bit l) s = .next t ∧
      t = (busRun (srcReads (.mem l) s) s).setCpu
        { s.cpu with
          z := decide ((s.cpu.a &&& m).toNat = 0)
          n := decide (128 ≤ m.toNat)
          v := decide (64 ≤ m.toNat % 128) } ∧
      t.cycles = s.cycles + busTicks (srcReads (.mem l) s) ∧ ReadsOnly s t

/-- ADC and SBC do not depend on D and keep it (R29, R265). -/
def Obligations.DecimalFlagHasNoEffect : Prop :=
  ∀ (s : State) (o : Src) (b : Bool), ∀ i ∈ [Instr.adc o, .sbc o],
    ∃ t, exec i s = .next t ∧ t.cpu.d = s.cpu.d ∧
      exec i (s.setCpu { s.cpu with d := b }) = .next (t.setCpu { t.cpu with d := b })

/-! ## Shifts, increments, decrements -/

/-- ASL, LSR, ROL, ROR of A or of a memory byte: the result, C the bit shifted out, N and Z from the result; a memory byte
is read, written back, then written (R300 to R303). -/
def Obligations.ShiftInstructions : Prop :=
  (formsShift.map fun t => opcodeOf (.asl t)) = [0x0A#8, 0x06, 0x16, 0x0E, 0x1E].map some ∧
  (formsShift.map fun t => opcodeOf (.lsr t)) = [0x4A#8, 0x46, 0x56, 0x4E, 0x5E].map some ∧
  (formsShift.map fun t => opcodeOf (.rol t)) = [0x2A#8, 0x26, 0x36, 0x2E, 0x3E].map some ∧
  (formsShift.map fun t => opcodeOf (.ror t)) = [0x6A#8, 0x66, 0x76, 0x6E, 0x7E].map some ∧
  ∀ (s : State) (l : Loc),
    let c := s.cpu.c.toNat
    ∀ r ∈ [(Instr.asl, fun n => 2 * n, fun n => decide (128 ≤ n)), (.lsr, fun n => n / 2, fun n => decide (n % 2 = 1)),
           (.rol, fun n => 2 * n + c, fun n => decide (128 ≤ n)),
           (.ror, fun n => n / 2 + 128 * c, fun n => decide (n % 2 = 1))],
    (let new : Byte := BitVec.ofNat 8 (r.2.1 s.cpu.a.toNat)
     ∃ t, exec (r.1 .acc) s = .next t ∧
       t = (busRun [.read s.cpu.pc] s).setCpu ({ s.cpu with a := new, c := r.2.2 s.cpu.a.toNat }.withNZ new) ∧
       t.cycles = s.cycles + 1 ∧ ReadsOnly s t) ∧
    (let old := oldByte l s
     let new : Byte := BitVec.ofNat 8 (r.2.1 old.toNat)
     ∃ t, exec (r.1 (.mem l)) s = .next t ∧
       t = (busRun (modifyBus l new s) s).setCpu ({ s.cpu with c := r.2.2 old.toNat }.withNZ new) ∧
       t.cycles = s.cycles + busTicks (modifyBus l new s) ∧
       (Memory.wf 2048 s.ram → StoresOnly (effAddr l s) new s t))

/-- INC and DEC of a memory byte: modulo 256, N and Z, never C or V; read, written back, then written (R304, R305). -/
def Obligations.IncDecInstructions : Prop :=
  ([.zp 0, .zpx 0, .abs 0, .abx 0].map fun l => opcodeOf (.inc l)) = [0xE6#8, 0xF6, 0xEE, 0xFE].map some ∧
  ([.zp 0, .zpx 0, .abs 0, .abx 0].map fun l => opcodeOf (.dec l)) = [0xC6#8, 0xD6, 0xCE, 0xDE].map some ∧
  ∀ (s : State) (l : Loc), ∀ r ∈ [(Instr.inc, 1), (.dec, 255)],
    let new : Byte := BitVec.ofNat 8 ((oldByte l s).toNat + r.2)
    ∃ t, exec (r.1 l) s = .next t ∧ t = (busRun (modifyBus l new s) s).setCpu (s.cpu.withNZ new) ∧
      t.cycles = s.cycles + busTicks (modifyBus l new s) ∧
      (Memory.wf 2048 s.ram → StoresOnly (effAddr l s) new s t)

/-! ## The bus -/

/-- A tick: the cycle counter and the APU advance by one, the PPU by three dots (R64); every access makes one, but a write
to `$4014`, which makes 513 (R62, R63, R450). -/
def Obligations.EveryAccessTicks : Prop :=
  ∀ (s : State) (a : Word) (v : Byte), s.ppu.line < 262 → s.ppu.dot < 341 →
    let after (t : State) (n : Nat) : Prop :=
      t.cycles = s.cycles + n ∧ t.apu.cyc = s.apu.cyc + n ∧
      t.ppu.dotsIntoFrame = (s.ppu.dotsIntoFrame + 3 * n) % 89342 ∧ t.ppu.line < 262 ∧ t.ppu.dot < 341
    after (tick s) 1 ∧ after (memRead a s).2 1 ∧ after (memWrite a v s) (if a = 0x4014 then 513 else 1)

/-- Internal RAM: what was written last is read, through every mirror, and a read has no effect but its tick (R66). -/
def Obligations.RamIsMirrored : Prop :=
  ∀ (s : State) (a b : Word) (v : Byte), Memory.wf 2048 s.ram → InRam a → InRam b →
    (memRead b (memWrite a v s)).1 = (if b.toNat % 0x800 = a.toNat % 0x800 then v else (memRead b s).1) ∧
    memRead b s = (peek s b, tick s) ∧ Memory.wf 2048 (memWrite a v s).ram

/-- The APU addresses read 0 with no side effect; `$4014`, `$4018` to `$401F` and the mapper space below `$8000` read a free
byte with no side effect; writes to the last two do nothing; all tick (R69 to R72). That the unspecified byte is a free
value drawn by a counter is the model's choice (log 3). -/
def Obligations.UnreadableAddresses : Prop :=
  ∀ (s : State) (a : Word) (v : Byte), 0x4000 ≤ a.toNat → a.toNat < 0x8000 → a ≠ 0x4016 →
    (a.toNat < 0x4018 → a ≠ 0x4014 → memRead a s = (0, tick s)) ∧
    (a = 0x4014 ∨ 0x4018 ≤ a.toNat → memRead a s = (Config.freeByte s.draws, { tick s with draws := s.draws + 1 })) ∧
    (0x4018 ≤ a.toNat → memWrite a v s = tick s)

/-! ## PPU -/

/-- PPUCTRL, PPUMASK, OAMADDR, OAMDATA writes, the write to PPUSTATUS, and reads: a free byte from the write-only ones, the
OAM byte from OAMDATA; at every mirror (R67, R431 to R435, R441). That the unspecified byte is a free value drawn by a
counter is the model's choice (log 3). -/
def Obligations.PpuRegisterWrites : Prop :=
  ∀ (s : State) (a : Word) (v : Byte), 0x2000 ≤ a.toNat → a.toNat < 0x4000 →
    let u := tick s
    (a.toNat % 8 = 0 → memWrite a v s =
      { u with
        ppu.ctrl := v
        nmiQueued := u.nmiQueued || (decide (128 ≤ v.toNat) && u.ppu.nmiOccurred && !u.nmiLinePrev)
        nmiLinePrev := decide (128 ≤ v.toNat) && u.ppu.nmiOccurred }) ∧
    (a.toNat % 8 = 1 → memWrite a v s = { u with ppu.mask := v }) ∧
    (a.toNat % 8 = 2 → memWrite a v s = u) ∧
    (a.toNat % 8 = 3 → memWrite a v s = { u with ppu.oamAddr := v }) ∧
    (a.toNat % 8 = 4 → Memory.wf 256 s.ppu.oam →
      (memWrite a v s).ppu.oamAddr = s.ppu.oamAddr + 1 ∧
      ∀ k, k < 256 → memGet (memWrite a v s).ppu.oam k = if k = s.ppu.oamAddr.toNat then v else memGet s.ppu.oam k) ∧
    (a.toNat % 8 = 0 ∨ a.toNat % 8 = 1 ∨ a.toNat % 8 = 3 →
      memRead a s = (Config.freeByte u.draws, { u with draws := u.draws + 1 })) ∧
    (a.toNat % 8 = 4 → memRead a s = (memGet s.ppu.oam s.ppu.oamAddr.toNat, u))

/-- PPUSCROLL and PPUADDR: two writes each, with a latch each; a read gives a free byte (R436, R437). The two latches follow
R436 against D22 (log 10); that the unspecified byte is a free value drawn by a counter is the model's choice (log 3). -/
def Obligations.TwoWriteRegisters : Prop :=
  ∀ (s : State) (a : Word) (v : Byte), 0x2000 ≤ a.toNat → a.toNat < 0x4000 →
    let u := tick s
    (a.toNat % 8 = 5 → s.ppu.scrollLatch = .first →
      memWrite a v s = { u with ppu.scrollX := v, ppu.scrollLatch := .second }) ∧
    (a.toNat % 8 = 5 → s.ppu.scrollLatch = .second →
      memWrite a v s = { u with ppu.scrollY := v, ppu.scrollLatch := .first }) ∧
    (a.toNat % 8 = 6 → s.ppu.addrLatch = .first →
      memWrite a v s =
        { u with
          ppu.vramAddr := BitVec.ofNat 14 (v.toNat % 64 * 256 + s.ppu.vramAddr.toNat % 256)
          ppu.addrLatch := .second }) ∧
    (a.toNat % 8 = 6 → s.ppu.addrLatch = .second →
      memWrite a v s =
        { u with
          ppu.vramAddr := BitVec.ofNat 14 (s.ppu.vramAddr.toNat / 256 * 256 + v.toNat)
          ppu.addrLatch := .first }) ∧
    (a.toNat % 8 = 5 ∨ a.toNat % 8 = 6 → memRead a s = (Config.freeByte u.draws, { u with draws := u.draws + 1 }))

/-- A PPUSTATUS read shows the vblank and sprite-zero flags, clears the vblank flag, resets both write latches, and does
not un-queue an NMI (R433, R441). Bits 5:0 are free; the value of the overflow flag is the model's choice (log 4). -/
def Obligations.PpuStatusReadClears : Prop :=
  ∀ (s : State) (a : Word), 0x2000 ≤ a.toNat → a.toNat < 0x4000 → a.toNat % 8 = 2 →
    let u := tick s
    let r := memRead a s
    r.1.getLsbD 7 = u.ppu.nmiOccurred ∧ r.1.getLsbD 6 = u.ppu.sprite0Hit ∧
    r.2 =
      { u with
        ppu.nmiOccurred := false
        ppu.spriteOverflow := r.1.getLsbD 5
        ppu.addrLatch := .first
        ppu.scrollLatch := .first
        nmiLinePrev := false
        draws := u.draws + 1 }

/-- PPUDATA: a read below the palette gives the read buffer and refills it, a palette read is immediate; reads and writes
step the address by 1 or 32 modulo 16384 (R438). -/
def Obligations.PpuDataAccess : Prop :=
  ∀ (s : State) (a : Word) (v : Byte), 0x2000 ≤ a.toNat → a.toNat < 0x4000 → a.toNat % 8 = 7 →
    let u := tick s
    let va := s.ppu.vramAddr
    let next : VAddr := BitVec.ofNat 14 (va.toNat + if s.ppu.ctrl.toNat / 4 % 2 = 1 then 32 else 1)
    (va.toNat < 0x3F00 → memRead a s =
      (s.ppu.readBuffer, { u with ppu.readBuffer := ppuRead u va, ppu.vramAddr := next })) ∧
    (0x3F00 ≤ va.toNat → memRead a s =
      (ppuRead u va,
        { u with ppu.readBuffer := ppuRead u (BitVec.ofNat 14 (va.toNat - 0x1000)), ppu.vramAddr := next })) ∧
    memWrite a v s = { ppuWrite va v u with ppu.vramAddr := next }

/-- The PPU space: a write is read back at every mirror of its address and nowhere else, palette bytes 6 bits wide; the
nametables by the mirroring in force, `$3000-$3EFF` as `$2000-$2EFF`, palette entries `$10 $14 $18 $1C` as `$00 $04 $08
$0C`; CHR-ROM takes no write (R439, R471, R476). -/
def Obligations.PpuSpaceReadBack : Prop :=
  ∀ (s : State) (a b : VAddr) (v : Byte), Inv s →
    let place (c : VAddr) := ppuPlace s c.toNat
    ppuRead (ppuWrite a v s) b =
      (if place a = place b ∧ (0x2000 ≤ a.toNat ∨ s.cfg.chrBanks = 0) then if a.toNat < 0x3F00 then v else v &&& 0x3F
       else ppuRead s b) ∧
    (place a = place b → ppuRead s a = ppuRead s b) ∧
    (0x2000 ≤ a.toNat → a.toNat < 0x3F00 → ppuRead s a = memGet s.ppu.nametable (place a).2) ∧
    (0x2000 ≤ a.toNat → a.toNat < 0x2F00 → ppuRead s (a + 0x1000) = ppuRead s a) ∧
    (0x3F00 ≤ a.toNat → (ppuRead s a).toNat < 64) ∧
    (0x3F00 ≤ a.toNat → 0x3F00 ≤ b.toNat → a.toNat % 16 = b.toNat % 16 → a.toNat % 4 = 0 → ppuRead s a = ppuRead s b) ∧
    (a.toNat < 0x2000 → s.cfg.chrBanks ≠ 0 → ppuWrite a v s = s)

/-- The vblank flag sets at (241, 1), queues an NMI on a rise of the line and hands off the frame; it clears at (261, 1)
with the sprite flags; at no other dot does the PPU touch the flag, the queue or the video port (R440, R441, R452). -/
def Obligations.VblankFlagAndNmiEdge : Prop :=
  ∀ s : State,
    let t := ppuAdvanceDot s
    let enabled := decide (128 ≤ s.ppu.ctrl.toNat)
    (s.ppu.line = 241 → s.ppu.dot = 0 →
      t.ppu.line = 241 ∧ t.ppu.dot = 1 ∧ t.ppu.nmiOccurred = true ∧
      t.nmiQueued = (s.nmiQueued || (enabled && !s.nmiLinePrev)) ∧ t.nmiLinePrev = enabled ∧
      t.video = ⟨s.video.frames + 1, s.ppu.framebuffer⟩) ∧
    (s.ppu.line = 261 → s.ppu.dot = 0 →
      t.ppu.nmiOccurred = false ∧ t.ppu.sprite0Hit = false ∧ t.ppu.spriteOverflow = false ∧
      t.nmiQueued = s.nmiQueued ∧ t.nmiLinePrev = false ∧ t.video = s.video) ∧
    (¬(s.ppu.dot = 0 ∧ (s.ppu.line = 241 ∨ s.ppu.line = 261)) →
      t.ppu.nmiOccurred = s.ppu.nmiOccurred ∧ t.nmiQueued = s.nmiQueued ∧ t.nmiLinePrev = s.nmiLinePrev ∧
      t.video = s.video)

/-- OAM DMA from a page of plain memory: 256 bytes from OAMADDR up, modulo 256, OAMADDR ending where it began, 513 ticks in
the write, the source and RAM as before (R450). -/
def Obligations.OamDmaCopiesPage : Prop :=
  ∀ (s : State) (page : Byte), Memory.wf 256 s.ppu.oam → page.toNat < 0x20 ∨ 0x80 ≤ page.toNat →
    let t := memWrite 0x4014 page s
    (∀ k, k < 256 →
      memGet t.ppu.oam ((s.ppu.oamAddr.toNat + k) % 256) = peek s (BitVec.ofNat 16 (256 * page.toNat + k))) ∧
    t.ppu.oamAddr = s.ppu.oamAddr ∧ t.cycles = s.cycles + 513 ∧ t.ram = s.ram ∧ t.mapper = s.mapper ∧ t.cpu = s.cpu

/-- Sprites, dot by dot. Evaluation: secondary OAM takes the first eight qualifying entries of the 64, lowest first, entry 0 is
flagged when it qualifies, nothing else changes; it happens at dot 256, the sprite fetch at dot 320. The sprite-zero flag is
set at a visible dot by the hit of R446 and by nothing else; (R443, R444, R446). The
row of an entry that no longer fits its line is the model's choice (log 17). -/
def Obligations.SpritesAndSpriteZeroHit : Prop :=
  (∀ (p : Ppu) (l : Nat),
    p.evalSprites l = { p with secOam := firstEight p l, sprite0Present := fitsLine p l 0 } ∧
    (p.evalSprites l).secOam.length ≤ 8) ∧
  ∀ s : State,
    let p := s.ppu
    let l := p.line
    let t := (ppuAdvanceDot s).ppu
    let draws := (byteBit p.mask 3 = 1 ∨ byteBit p.mask 4 = 1) ∧ l ≤ 239
    let renders := (byteBit p.mask 3 = 1 ∨ byteBit p.mask 4 = 1) ∧ (l ≤ 239 ∨ l = 261)
    (draws → p.dot < 256 → t.sprite0Hit = (p.sprite0Hit || spriteZeroHitAt s p.dot l)) ∧
    (¬(draws ∧ p.dot < 256) → ¬(l = 261 ∧ p.dot = 0) → t.sprite0Hit = p.sprite0Hit) ∧
    (renders → p.dot = 255 → t.secOam = firstEight p l ∧ t.sprite0Present = fitsLine p l 0) ∧
    (¬(renders ∧ p.dot = 255) → t.secOam = p.secOam ∧ t.sprite0Present = p.sprite0Present) ∧
    (renders → p.dot = 319 → t.spr = p.secOam.map (slotOf s l) ∧ t.spr0OnLine = p.sprite0Present) ∧
    (¬(renders ∧ p.dot = 319) → t.spr = p.spr ∧ t.spr0OnLine = p.spr0OnLine)

/-! ## APU, mappers, controller, reset -/

/-- The APU registers, `$4000` to `$4013`, `$4015` and `$4017`: after the tick, each write sets the fields of its register,
with what its rule adds (the length load, the sequencer, the envelope's start, the enables, the frame reset), and nothing
else changes (R462 to R468). That `$400F` loads the length whatever the halt bit is reads R464 beside D28 (log 26);
that `$400B` keeps the triangle's position is the model's choice (log 27). -/
def Obligations.ApuRegisterWrites : Prop :=
  ∀ (s : State) (v : Byte),
    (apuWrites (tick s).apu v).map Prod.fst = (List.range 20).map (fun k => BitVec.ofNat 16 (0x4000 + k)) ++ [0x4015, 0x4017] ∧
    ∀ r ∈ apuWrites (tick s).apu v, memWrite r.1 v s = { tick s with apu := r.2 }

/-- The envelope, the length counter, the sweep, the linear counter and the LFSR at their clocks (R490 to R492, R494, R495);
what the quarter-frame and the half-frame event clock; the frame sequencer's events and its return to 0 (R461, R467). -/
def Obligations.ApuUnitsAndSequencer : Prop :=
  (∀ e : Envelope,
    (e.start = true → e.clock = { e with start := false, decay := 15, div := e.volume }) ∧
    (e.start = false → e.div ≠ 0 → e.clock = { e with div := BitVec.ofNat 4 (e.div.toNat - 1) }) ∧
    (e.start = false → e.div = 0 → e.clock.div = e.volume ∧ e.clock.start = false ∧
      e.clock.decay.toNat =
        if 0 < e.decay.toNat then e.decay.toNat - 1 else if e.loop then 15 else 0)) ∧
  (∀ (halt : Bool) (n : Byte),
    (clockLength halt n).toNat = if halt = false ∧ 0 < n.toNat then n.toNat - 1 else n.toNat) ∧
  (∀ n : Noise, n.lfsr ≠ 0 →
    n.nextLfsr ≠ 0 ∧
    (∀ k, k < 14 → n.nextLfsr.getLsbD k = n.lfsr.getLsbD (k + 1)) ∧
    n.nextLfsr.getLsbD 14 = xor (n.lfsr.getLsbD 0) (n.lfsr.getLsbD (if n.short then 6 else 1))) ∧
  (∀ (p : Pulse) (one : Bool),
    let w := p.sweep
    let delta : Int := p.period.toNat / 2 ^ w.shift.toNat
    let target : Int := if w.negate then p.period.toNat - delta - one.toNat else p.period.toNat + delta
    let mute := 0x7FF < target ∨ p.period.toNat < 8
    p.clockSweep one =
      { p with
        period := if w.div = 0 ∧ w.enable = true ∧ w.shift ≠ 0 ∧ ¬mute then BitVec.ofInt 11 target else p.period
        sweep :=
          if w.div = 0 ∨ w.reload = true then { w with div := w.dividerPeriod, reload := false }
          else { w with div := BitVec.ofNat 3 (w.div.toNat - 1) } }) ∧
  (∀ a : Apu,
    let t := a.triangle
    let linear : BitVec 7 := if t.reloadFlag then t.reloadValue else BitVec.ofNat 7 (t.linear.toNat - 1)
    a.quarter =
      { a with
        pulse1 := { a.pulse1 with env := a.pulse1.env.clock }
        pulse2 := { a.pulse2 with env := a.pulse2.env.clock }
        triangle := { t with linear := linear, reloadFlag := t.reloadFlag && t.control }
        noise := { a.noise with env := a.noise.env.clock } } ∧
    a.half =
      { a with
        pulse1 := { a.pulse1.clockSweep true with length := clockLength a.pulse1.env.loop a.pulse1.length }
        pulse2 := { a.pulse2.clockSweep false with length := clockLength a.pulse2.env.loop a.pulse2.length }
        triangle := { t with length := clockLength t.control t.length }
        noise := { a.noise with length := clockLength a.noise.env.loop a.noise.length } }) ∧
  ∀ a : Apu,
    let n := a.fs + 1
    let b := { a with fs := n }
    (n = 7457 ∨ n = 22371 → a.frameStep = b.quarter) ∧
    (n = 14913 → a.frameStep = b.quarter.half) ∧
    (a.fiveStep = false → n = 29829 →
      a.frameStep = { b.quarter.half with fs := 0, frameFlag := a.frameFlag || !a.irqInhibit }) ∧
    (a.fiveStep = true → n = 37281 → a.frameStep = { b.quarter.half with fs := 0 }) ∧
    (n ∉ [7457, 14913, 22371, if a.fiveStep then 37281 else 29829] → a.frameStep = b)

/-- The PRG byte each mapper shows at an address of `$8000-$FFFF` and the CHR byte it shows at a pattern-table address, bank
numbers modulo the banks present, and the bank registers its writes set (R471 to R476); no write below `$8000` reaches a mapper register (R72). -/
def Obligations.MapperBanking : Prop :=
  (∀ (s : State) (a : Word), InRom a → 0 < s.cfg.prgBanks →
    let n := s.cfg.prgBanks
    let byte (k : Nat) : Byte := memGet s.cfg.prg k
    let lower := a.toNat < 0xC000
    let off := a.toNat % 16384
    (s.mapper = .nrom → n ≤ 2 → (memRead a s).1 = byte ((a.toNat - 0x8000) % (16384 * n))) ∧
    (∀ c, s.mapper = .cnrom c → n ≤ 2 → (memRead a s).1 = byte ((a.toNat - 0x8000) % (16384 * n))) ∧
    (∀ b, s.mapper = .uxrom b →
      (memRead a s).1 = byte ((if lower then b.toNat % n else n - 1) * 16384 + off)) ∧
    (∀ c p, s.mapper = .gxrom c p → n % 2 = 0 →
      (memRead a s).1 = byte (p.toNat % (n / 2) * 32768 + (a.toNat - 0x8000))) ∧
    (∀ m, s.mapper = .mmc1 m →
      (m.control.toNat / 4 % 4 = 3 →
        (memRead a s).1 = byte ((if lower then m.prg.toNat % 16 % n else n - 1) * 16384 + off)) ∧
      (m.control.toNat / 4 % 4 = 2 →
        (memRead a s).1 = byte ((if lower then 0 else m.prg.toNat % 16 % n) * 16384 + off)) ∧
      (m.control.toNat / 4 % 4 < 2 → n % 2 = 0 →
        (memRead a s).1 = byte (m.prg.toNat / 2 % 8 % (n / 2) * 32768 + (a.toNat - 0x8000))))) ∧
  (∀ (s : State) (a : VAddr), a.toNat < 0x2000 →
    let n := s.cfg.chrBanks
    let k := a.toNat
    let byte (j : Nat) : Byte := memGet s.cfg.chr j
    (n = 0 → ppuRead s a = memGet s.chrRam k) ∧
    (0 < n →
      (s.mapper = .nrom → ppuRead s a = byte k) ∧
      (∀ b, s.mapper = .uxrom b → ppuRead s a = byte k) ∧
      (∀ c, s.mapper = .cnrom c → ppuRead s a = byte (c.toNat % n * 8192 + k)) ∧
      (∀ c p, s.mapper = .gxrom c p → ppuRead s a = byte (c.toNat % n * 8192 + k)) ∧
      (∀ m, s.mapper = .mmc1 m →
        (m.control.toNat / 16 = 0 → ppuRead s a = byte (m.chr0.toNat / 2 % n * 8192 + k)) ∧
        (m.control.toNat / 16 = 1 →
          ppuRead s a = byte ((if k < 4096 then m.chr0 else m.chr1).toNat % (2 * n) * 4096 + k % 4096))))) ∧
  ∀ (s : State) (a : Word) (v : Byte),
    (¬InRom a → (memWrite a v s).mapper = s.mapper) ∧
    (InRom a → ∀ (b : BitVec 3) (c : BitVec 2) (d : BitVec 3),
      (s.mapper = .nrom → (memWrite a v s).mapper = .nrom) ∧
      (s.mapper = .uxrom b → (memWrite a v s).mapper = .uxrom (BitVec.ofNat 3 (v.toNat % 8))) ∧
      (s.mapper = .cnrom c → (memWrite a v s).mapper = .cnrom (BitVec.ofNat 2 (v.toNat % 4))) ∧
      (s.mapper = .gxrom b d →
        (memWrite a v s).mapper = .gxrom (BitVec.ofNat 3 (v.toNat % 8)) (BitVec.ofNat 3 (v.toNat / 16 % 8))))

/-- MMC1: five writes with bit 7 clear commit bits 0 of the values, first value lowest, to the register the fifth address
selects; a write with bit 7 set drops what was shifted in and commits nothing (R476). -/
def Obligations.Mmc1SerialWrites : Prop :=
  ∀ (s : State) (m : Mmc1), s.mapper = .mmc1 m → m.count = 0 → m.shift = 0 →
    ∀ (a1 a2 a3 a4 a5 : Word) (v1 v2 v3 v4 v5 : Byte),
      (∀ a ∈ [a1, a2, a3, a4, a5], InRom a) → (∀ v ∈ [v1, v2, v3, v4, v5], v.toNat < 128) →
      let bits (l : List Byte) : BitVec 5 :=
        BitVec.ofNat 5 ((l.zipIdx.map fun p => p.1.toNat % 2 * 2 ^ p.2).sum)
      let four := busRun [.write a1 v1, .write a2 v2, .write a3 v3, .write a4 v4] s
      let x := bits [v1, v2, v3, v4, v5]
      four.mapper = .mmc1 { m with shift := bits [v1, v2, v3, v4], count := 4 } ∧
      (memWrite a5 v5 four).mapper = .mmc1
        (if a5.toNat < 0xA000 then { m with control := x }
         else if a5.toNat < 0xC000 then { m with chr0 := x }
         else if a5.toNat < 0xE000 then { m with chr1 := x }
         else { m with prg := x }) ∧
      ∀ w : Byte, 128 ≤ w.toNat → (memWrite a5 w four).mapper = .mmc1 m

/-- The controller: a write with bit 0 set latches the buttons, a write with it clear starts the shift; read `k` then gives
button `k`, and 1 after the eighth; while the strobe is set every read gives the first button (R480). -/
def Obligations.ControllerSerialRead : Prop :=
  ∀ (s : State) (b : Byte) (rest : List Byte) (v w : Byte), s.input = b :: rest → v.toNat % 2 = 1 → w.toNat % 2 = 0 →
    ∀ k,
      let reads := List.replicate k (BusOp.read 0x4016)
      (memRead 0x4016 (busRun (.write 0x4016 v :: .write 0x4016 w :: reads) s)).1 =
        BitVec.ofNat 8 (if k < 8 then b.toNat / 2 ^ k % 2 else 1) ∧
      (memRead 0x4016 (busRun (.write 0x4016 v :: reads) s)).1 = BitVec.ofNat 8 (b.toNat % 2)

/-- Reset, from any state: every register at its value of R601, `pc` the little-endian word at `$FFFC`, the cartridge as
before; nothing ticks (R600, R601, R430, R459, R471, R476). The layout of the background latches and shift registers, 0
like every pipeline register, is the model's choice (log 11). -/
def Obligations.ResetValues : Prop :=
  ∀ s : State,
    let t := hostReset s
    t.cpu = ⟨0x00, 0x00, 0x00, 0xFD, mkWord (peek t 0xFFFD) (peek t 0xFFFC), false, false, false, true, false, false⟩ ∧
    t.nmiQueued = false ∧ t.nmiLinePrev = false ∧ t.cycles = 0 ∧ t.fault = none ∧
    (∀ k, memGet t.ram k = 0 ∧ memGet t.chrRam k = 0 ∧ memGet t.ppu.oam k = 0 ∧ memGet t.ppu.nametable k = 0 ∧
      memGet t.ppu.palette k = 0) ∧
    (∀ x y, t.ppu.framebuffer.rgb x y = 0) ∧
    t.ppu =
      { ctrl := 0, mask := 0, nmiOccurred := false, sprite0Hit := false, spriteOverflow := false, oamAddr := 0, oam := []
        secOam := [], sprite0Present := false, spr := [], spr0OnLine := false, addrLatch := .first, scrollLatch := .first
        vramAddr := 0, scrollX := 0, scrollY := 0, readBuffer := 0, nametable := [], palette := [], bg := ⟨0, 0, 0, 0⟩
        bgShift := ⟨0, 0, 0, 0⟩, line := 0, dot := 0, framebuffer := [] } ∧
    (let env : Envelope := ⟨false, false, 0, false, 0, 0⟩
     let pulse : Pulse :=
      { enabled := false, duty := 0, env := env, sweep := ⟨false, 0, false, 0, false, 0⟩, period := 0, timer := 0, pos := 0
        length := 0 }
     t.apu =
      { cyc := 0, fs := 0, fiveStep := false, irqInhibit := false, frameFlag := false, pulse1 := pulse, pulse2 := pulse
        triangle :=
          { enabled := false, control := false, reloadValue := 0, reloadFlag := false, linear := 0, period := 0, timer := 0
            pos := 0, length := 0 }
        noise := { enabled := false, env := env, short := false, periodIndex := 0, timer := 0, lfsr := 1, length := 0 }
        sacc := 0, buffer := [] }) ∧
    t.ctl.strobe = false ∧
    t.mapper =
      (match s.mapper with
       | .nrom => .nrom
       | .mmc1 _ => .mmc1 { shift := 0, count := 0, control := 0x0C, chr0 := 0, chr1 := 0, prg := 0 }
       | .uxrom _ => .uxrom 0
       | .cnrom _ => .cnrom 0
       | .gxrom _ _ => .gxrom 0 0) ∧
    t.cfg = s.cfg
end

