-- ==== Sys2Proof/Laws/Memory.lean ====
section
/-! SUPPORT. The laws of sparse memories: a read after a write, and the canonical form every operation keeps. -/

namespace Sys2Proof.Machine

variable {α : Type}

theorem lookupKey_insertKey_same (k : Nat) (v : α) (m : List (Nat × α)) :
    lookupKey k (insertKey k v m) = some v := by
  induction m with
  | nil => simp [insertKey, lookupKey]
  | cons p rest ih =>
    obtain ⟨j, w⟩ := p
    simp only [insertKey]
    split
    · simp [lookupKey]
    · split
      · simp [lookupKey]
      · next h => simp [lookupKey, Ne.symm h, ih]

theorem lookupKey_insertKey_other {k l : Nat} (h : l ≠ k) (v : α) (m : List (Nat × α)) :
    lookupKey l (insertKey k v m) = lookupKey l m := by
  induction m with
  | nil => simp [insertKey, lookupKey, Ne.symm h]
  | cons p rest ih =>
    obtain ⟨j, w⟩ := p
    simp only [insertKey]
    split
    · simp [lookupKey, Ne.symm h]
    · split
      · next hj => subst hj; simp [lookupKey, Ne.symm h]
      · simp [lookupKey, ih]

theorem lookupKey_none_of_lt {k : Nat} {m : List (Nat × α)} (h : ∀ p ∈ m, k < p.1) : lookupKey k m = none := by
  induction m with
  | nil => rfl
  | cons p rest ih =>
    obtain ⟨j, w⟩ := p
    have hj : k < j := h (j, w) (by simp)
    simp only [lookupKey, if_neg (Nat.ne_of_gt hj)]
    exact ih fun q hq => h q (by simp [hq])

theorem lookupKey_eraseKey_same {k : Nat} {m : List (Nat × α)} (h : Rising m) : lookupKey k (eraseKey k m) = none := by
  induction m with
  | nil => rfl
  | cons p rest ih =>
    obtain ⟨j, w⟩ := p
    obtain ⟨h1, h2⟩ := List.pairwise_cons.1 h
    simp only [eraseKey]
    split
    · next hj => subst hj; exact lookupKey_none_of_lt fun q hq => h1 q hq
    · next hj => simp [lookupKey, hj, ih h2]

theorem lookupKey_eraseKey_other {k l : Nat} (h : l ≠ k) (m : List (Nat × α)) :
    lookupKey l (eraseKey k m) = lookupKey l m := by
  induction m with
  | nil => rfl
  | cons p rest ih =>
    obtain ⟨j, w⟩ := p
    simp only [eraseKey]
    split
    · next hj => subst hj; simp [lookupKey, Ne.symm h]
    · simp [lookupKey, ih]

theorem mem_insertKey {k : Nat} {v : α} {m : List (Nat × α)} {p : Nat × α} (h : p ∈ insertKey k v m) :
    p = (k, v) ∨ p ∈ m := by
  induction m with
  | nil => simpa [insertKey] using h
  | cons q rest ih =>
    obtain ⟨j, w⟩ := q
    simp only [insertKey] at h
    split at h
    · simpa using h
    · split at h
      · rcases List.mem_cons.1 h with h | h
        · exact .inl h
        · exact .inr (List.mem_cons_of_mem _ h)
      · rcases List.mem_cons.1 h with h | h
        · exact .inr (by simp [h])
        · exact (ih h).imp id (List.mem_cons_of_mem _)

theorem mem_eraseKey {k : Nat} {m : List (Nat × α)} {p : Nat × α} (h : p ∈ eraseKey k m) : p ∈ m := by
  induction m with
  | nil => exact h
  | cons q rest ih =>
    obtain ⟨j, w⟩ := q
    simp only [eraseKey] at h
    split at h
    · exact List.mem_cons_of_mem _ h
    · rcases List.mem_cons.1 h with h | h
      · simp [h]
      · exact List.mem_cons_of_mem _ (ih h)

theorem insertKey_rising (k : Nat) (v : α) {m : List (Nat × α)} (h : Rising m) : Rising (insertKey k v m) := by
  induction m with
  | nil => simp [insertKey, Rising]
  | cons q rest ih =>
    obtain ⟨j, w⟩ := q
    obtain ⟨h1, h2⟩ := List.pairwise_cons.1 h
    simp only [insertKey]
    split
    · next hk =>
      refine List.pairwise_cons.2 ⟨fun p hp => ?_, h⟩
      rcases List.mem_cons.1 hp with rfl | hp
      · exact hk
      · exact Nat.lt_trans hk (h1 p hp)
    · next hk =>
      split
      · next hj => subst hj; exact List.pairwise_cons.2 ⟨h1, h2⟩
      · next hj =>
        refine List.pairwise_cons.2 ⟨fun p hp => ?_, ih h2⟩
        rcases mem_insertKey hp with rfl | hp
        · show j < k
          omega
        · exact h1 p hp

theorem eraseKey_rising (k : Nat) {m : List (Nat × α)} (h : Rising m) : Rising (eraseKey k m) := by
  induction m with
  | nil => exact h
  | cons q rest ih =>
    obtain ⟨j, w⟩ := q
    obtain ⟨h1, h2⟩ := List.pairwise_cons.1 h
    simp only [eraseKey]
    split
    · exact h2
    · exact List.pairwise_cons.2 ⟨fun p hp => h1 p (mem_eraseKey hp), ih h2⟩

/-- A read after a write to the same place gives the value written. -/
theorem memGet_memSet_same {m : Mem} (h : Rising m) (k : Nat) (v : Byte) : memGet (memSet m k v) k = v := by
  simp only [memGet, memSet]
  split
  · next hv => simp [lookupKey_eraseKey_same h, hv]
  · simp [lookupKey_insertKey_same]

/-- A write leaves every other place alone. -/
theorem memGet_memSet_other (m : Mem) {k l : Nat} (h : l ≠ k) (v : Byte) : memGet (memSet m k v) l = memGet m l := by
  simp only [memGet, memSet]
  split
  · simp [lookupKey_eraseKey_other h]
  · simp [lookupKey_insertKey_other h]

theorem memGet_memSet {m : Mem} (h : Rising m) (k l : Nat) (v : Byte) :
    memGet (memSet m k v) l = if l = k then v else memGet m l := by
  split
  · next hl => subst hl; exact memGet_memSet_same h l v
  · next hl => exact memGet_memSet_other m hl v

/-- A write in range keeps the canonical form. -/
theorem memSet_wf {size : Nat} {m : Mem} (h : Memory.wf size m) {k : Nat} (hk : k < size) (v : Byte) :
    Memory.wf size (memSet m k v) := by
  simp only [memSet]
  split
  · exact ⟨eraseKey_rising k h.1, fun p hp => h.2 p (mem_eraseKey hp)⟩
  · next hv =>
    refine ⟨insertKey_rising k v h.1, fun p hp => ?_⟩
    rcases mem_insertKey hp with rfl | hp
    · exact ⟨hk, hv⟩
    · exact h.2 p hp

/-- The empty memory is in canonical form. -/
theorem nil_wf (size : Nat) : Memory.wf size [] := by simp [Memory.wf, Rising]

/-- A memory in canonical form reads `$00` past its size. -/
theorem memGet_of_ge {size : Nat} {m : Mem} (h : Memory.wf size m) {k : Nat} (hk : size ≤ k) : memGet m k = 0 := by
  have hnone : ∀ l : Mem, (∀ p ∈ l, p.1 < size) → lookupKey k l = none := by
    intro l
    induction l with
    | nil => intro _; rfl
    | cons p rest ih =>
      intro hl
      have := hl p (by simp)
      simp only [lookupKey]
      rw [if_neg (by omega)]
      exact ih fun q hq => hl q (by simp [hq])
  simp [memGet, hnone m fun p hp => (h.2 p hp).1]

end Sys2Proof.Machine
end

