-- ==== Sys2Proof/Laws/State.lean ====
section
/-! SUPPORT. One lemma per field per update of `State` and `Cpu`, true by rfl, so that no later proof unfolds a
record update. -/

namespace Sys2Proof.Machine

variable (s : State) (k : Cpu) (w : Word) (b : Byte)

@[simp] theorem setCpu_cpu : (s.setCpu k).cpu = k := rfl
@[simp] theorem setCpu_ram : (s.setCpu k).ram = s.ram := rfl
@[simp] theorem setCpu_chrRam : (s.setCpu k).chrRam = s.chrRam := rfl
@[simp] theorem setCpu_ppu : (s.setCpu k).ppu = s.ppu := rfl
@[simp] theorem setCpu_apu : (s.setCpu k).apu = s.apu := rfl
@[simp] theorem setCpu_ctl : (s.setCpu k).ctl = s.ctl := rfl
@[simp] theorem setCpu_mapper : (s.setCpu k).mapper = s.mapper := rfl
@[simp] theorem setCpu_nmiLinePrev : (s.setCpu k).nmiLinePrev = s.nmiLinePrev := rfl
@[simp] theorem setCpu_nmiQueued : (s.setCpu k).nmiQueued = s.nmiQueued := rfl
@[simp] theorem setCpu_cycles : (s.setCpu k).cycles = s.cycles := rfl
@[simp] theorem setCpu_fault : (s.setCpu k).fault = s.fault := rfl
@[simp] theorem setCpu_cfg : (s.setCpu k).cfg = s.cfg := rfl
@[simp] theorem setCpu_input : (s.setCpu k).input = s.input := rfl
@[simp] theorem setCpu_draws : (s.setCpu k).draws = s.draws := rfl
@[simp] theorem setCpu_video : (s.setCpu k).video = s.video := rfl
@[simp] theorem setCpu_audio : (s.setCpu k).audio = s.audio := rfl

@[simp] theorem setPc_cpu : (s.setPc w).cpu = { s.cpu with pc := w } := rfl
@[simp] theorem setPc_ram : (s.setPc w).ram = s.ram := rfl
@[simp] theorem setPc_chrRam : (s.setPc w).chrRam = s.chrRam := rfl
@[simp] theorem setPc_ppu : (s.setPc w).ppu = s.ppu := rfl
@[simp] theorem setPc_apu : (s.setPc w).apu = s.apu := rfl
@[simp] theorem setPc_ctl : (s.setPc w).ctl = s.ctl := rfl
@[simp] theorem setPc_mapper : (s.setPc w).mapper = s.mapper := rfl
@[simp] theorem setPc_nmiLinePrev : (s.setPc w).nmiLinePrev = s.nmiLinePrev := rfl
@[simp] theorem setPc_nmiQueued : (s.setPc w).nmiQueued = s.nmiQueued := rfl
@[simp] theorem setPc_cycles : (s.setPc w).cycles = s.cycles := rfl
@[simp] theorem setPc_fault : (s.setPc w).fault = s.fault := rfl
@[simp] theorem setPc_cfg : (s.setPc w).cfg = s.cfg := rfl
@[simp] theorem setPc_input : (s.setPc w).input = s.input := rfl
@[simp] theorem setPc_draws : (s.setPc w).draws = s.draws := rfl
@[simp] theorem setPc_video : (s.setPc w).video = s.video := rfl
@[simp] theorem setPc_audio : (s.setPc w).audio = s.audio := rfl

@[simp] theorem setSp_cpu : (s.setSp b).cpu = { s.cpu with sp := b } := rfl
@[simp] theorem setSp_ram : (s.setSp b).ram = s.ram := rfl
@[simp] theorem setSp_chrRam : (s.setSp b).chrRam = s.chrRam := rfl
@[simp] theorem setSp_ppu : (s.setSp b).ppu = s.ppu := rfl
@[simp] theorem setSp_apu : (s.setSp b).apu = s.apu := rfl
@[simp] theorem setSp_ctl : (s.setSp b).ctl = s.ctl := rfl
@[simp] theorem setSp_mapper : (s.setSp b).mapper = s.mapper := rfl
@[simp] theorem setSp_nmiLinePrev : (s.setSp b).nmiLinePrev = s.nmiLinePrev := rfl
@[simp] theorem setSp_nmiQueued : (s.setSp b).nmiQueued = s.nmiQueued := rfl
@[simp] theorem setSp_cycles : (s.setSp b).cycles = s.cycles := rfl
@[simp] theorem setSp_fault : (s.setSp b).fault = s.fault := rfl
@[simp] theorem setSp_cfg : (s.setSp b).cfg = s.cfg := rfl
@[simp] theorem setSp_input : (s.setSp b).input = s.input := rfl
@[simp] theorem setSp_draws : (s.setSp b).draws = s.draws := rfl
@[simp] theorem setSp_video : (s.setSp b).video = s.video := rfl
@[simp] theorem setSp_audio : (s.setSp b).audio = s.audio := rfl

@[simp] theorem raiseFault_cpu (e : Fault) : (raiseFault e s).cpu = s.cpu := rfl
@[simp] theorem raiseFault_ram (e : Fault) : (raiseFault e s).ram = s.ram := rfl
@[simp] theorem raiseFault_chrRam (e : Fault) : (raiseFault e s).chrRam = s.chrRam := rfl
@[simp] theorem raiseFault_ppu (e : Fault) : (raiseFault e s).ppu = s.ppu := rfl
@[simp] theorem raiseFault_apu (e : Fault) : (raiseFault e s).apu = s.apu := rfl
@[simp] theorem raiseFault_ctl (e : Fault) : (raiseFault e s).ctl = s.ctl := rfl
@[simp] theorem raiseFault_mapper (e : Fault) : (raiseFault e s).mapper = s.mapper := rfl
@[simp] theorem raiseFault_nmiLinePrev (e : Fault) : (raiseFault e s).nmiLinePrev = s.nmiLinePrev := rfl
@[simp] theorem raiseFault_nmiQueued (e : Fault) : (raiseFault e s).nmiQueued = s.nmiQueued := rfl
@[simp] theorem raiseFault_cycles (e : Fault) : (raiseFault e s).cycles = s.cycles := rfl
@[simp] theorem raiseFault_fault (e : Fault) : (raiseFault e s).fault = some e := rfl
@[simp] theorem raiseFault_cfg (e : Fault) : (raiseFault e s).cfg = s.cfg := rfl
@[simp] theorem raiseFault_input (e : Fault) : (raiseFault e s).input = s.input := rfl
@[simp] theorem raiseFault_draws (e : Fault) : (raiseFault e s).draws = s.draws := rfl
@[simp] theorem raiseFault_video (e : Fault) : (raiseFault e s).video = s.video := rfl
@[simp] theorem raiseFault_audio (e : Fault) : (raiseFault e s).audio = s.audio := rfl

@[simp] theorem setNZ_a : (k.setNZ b).a = k.a := rfl
@[simp] theorem setNZ_x : (k.setNZ b).x = k.x := rfl
@[simp] theorem setNZ_y : (k.setNZ b).y = k.y := rfl
@[simp] theorem setNZ_sp : (k.setNZ b).sp = k.sp := rfl
@[simp] theorem setNZ_pc : (k.setNZ b).pc = k.pc := rfl
@[simp] theorem setNZ_n : (k.setNZ b).n = b.getLsbD 7 := rfl
@[simp] theorem setNZ_v : (k.setNZ b).v = k.v := rfl
@[simp] theorem setNZ_d : (k.setNZ b).d = k.d := rfl
@[simp] theorem setNZ_i : (k.setNZ b).i = k.i := rfl
@[simp] theorem setNZ_z : (k.setNZ b).z = (b == 0) := rfl
@[simp] theorem setNZ_c : (k.setNZ b).c = k.c := rfl

@[simp] theorem setStatus_a : (k.setStatus b).a = k.a := rfl
@[simp] theorem setStatus_x : (k.setStatus b).x = k.x := rfl
@[simp] theorem setStatus_y : (k.setStatus b).y = k.y := rfl
@[simp] theorem setStatus_sp : (k.setStatus b).sp = k.sp := rfl
@[simp] theorem setStatus_pc : (k.setStatus b).pc = k.pc := rfl
@[simp] theorem setStatus_n : (k.setStatus b).n = b.getLsbD 7 := rfl
@[simp] theorem setStatus_v : (k.setStatus b).v = b.getLsbD 6 := rfl
@[simp] theorem setStatus_d : (k.setStatus b).d = b.getLsbD 3 := rfl
@[simp] theorem setStatus_i : (k.setStatus b).i = b.getLsbD 2 := rfl
@[simp] theorem setStatus_z : (k.setStatus b).z = b.getLsbD 1 := rfl
@[simp] theorem setStatus_c : (k.setStatus b).c = b.getLsbD 0 := rfl

@[simp] theorem setModified_a (m : Modified) : (k.setModified m).a = k.a := rfl
@[simp] theorem setModified_x (m : Modified) : (k.setModified m).x = k.x := rfl
@[simp] theorem setModified_y (m : Modified) : (k.setModified m).y = k.y := rfl
@[simp] theorem setModified_sp (m : Modified) : (k.setModified m).sp = k.sp := rfl
@[simp] theorem setModified_pc (m : Modified) : (k.setModified m).pc = k.pc := rfl
@[simp] theorem setModified_n (m : Modified) : (k.setModified m).n = m.new.getLsbD 7 := rfl
@[simp] theorem setModified_v (m : Modified) : (k.setModified m).v = k.v := rfl
@[simp] theorem setModified_d (m : Modified) : (k.setModified m).d = k.d := rfl
@[simp] theorem setModified_i (m : Modified) : (k.setModified m).i = k.i := rfl
@[simp] theorem setModified_z (m : Modified) : (k.setModified m).z = (m.new == 0) := rfl
@[simp] theorem setModified_c (m : Modified) : (k.setModified m).c = m.carry := rfl

end Sys2Proof.Machine
end

