-- ==== Sys2Proof/Laws/Devices.lean ====
section
/-! SUPPORT. What the devices leave alone: the frame of each device operation, of the tick and of the two bus
primitives, one lemma per field. -/

namespace Sys2Proof.Machine

/-! ## Operations inside a tick -/

@[simp] theorem nmiLineEval_cpu (s : State) : (nmiLineEval s).cpu = s.cpu := rfl
@[simp] theorem nmiLineEval_ram (s : State) : (nmiLineEval s).ram = s.ram := rfl
@[simp] theorem nmiLineEval_chrRam (s : State) : (nmiLineEval s).chrRam = s.chrRam := rfl
@[simp] theorem nmiLineEval_ctl (s : State) : (nmiLineEval s).ctl = s.ctl := rfl
@[simp] theorem nmiLineEval_mapper (s : State) : (nmiLineEval s).mapper = s.mapper := rfl
@[simp] theorem nmiLineEval_fault (s : State) : (nmiLineEval s).fault = s.fault := rfl
@[simp] theorem nmiLineEval_cfg (s : State) : (nmiLineEval s).cfg = s.cfg := rfl
@[simp] theorem nmiLineEval_input (s : State) : (nmiLineEval s).input = s.input := rfl
@[simp] theorem nmiLineEval_draws (s : State) : (nmiLineEval s).draws = s.draws := rfl
@[simp] theorem nmiLineEval_apu (s : State) : (nmiLineEval s).apu = s.apu := rfl
@[simp] theorem nmiLineEval_cycles (s : State) : (nmiLineEval s).cycles = s.cycles := rfl
@[simp] theorem nmiLineEval_audio (s : State) : (nmiLineEval s).audio = s.audio := rfl
@[simp] theorem videoHandOff_cpu (s : State) : (videoHandOff s).cpu = s.cpu := rfl
@[simp] theorem videoHandOff_ram (s : State) : (videoHandOff s).ram = s.ram := rfl
@[simp] theorem videoHandOff_chrRam (s : State) : (videoHandOff s).chrRam = s.chrRam := rfl
@[simp] theorem videoHandOff_ctl (s : State) : (videoHandOff s).ctl = s.ctl := rfl
@[simp] theorem videoHandOff_mapper (s : State) : (videoHandOff s).mapper = s.mapper := rfl
@[simp] theorem videoHandOff_fault (s : State) : (videoHandOff s).fault = s.fault := rfl
@[simp] theorem videoHandOff_cfg (s : State) : (videoHandOff s).cfg = s.cfg := rfl
@[simp] theorem videoHandOff_input (s : State) : (videoHandOff s).input = s.input := rfl
@[simp] theorem videoHandOff_draws (s : State) : (videoHandOff s).draws = s.draws := rfl
@[simp] theorem videoHandOff_apu (s : State) : (videoHandOff s).apu = s.apu := rfl
@[simp] theorem videoHandOff_cycles (s : State) : (videoHandOff s).cycles = s.cycles := rfl
@[simp] theorem videoHandOff_audio (s : State) : (videoHandOff s).audio = s.audio := rfl
@[simp] theorem drawDot_cpu (s : State) (x y : Nat) : (drawDot s x y).cpu = s.cpu := rfl
@[simp] theorem drawDot_ram (s : State) (x y : Nat) : (drawDot s x y).ram = s.ram := rfl
@[simp] theorem drawDot_chrRam (s : State) (x y : Nat) : (drawDot s x y).chrRam = s.chrRam := rfl
@[simp] theorem drawDot_ctl (s : State) (x y : Nat) : (drawDot s x y).ctl = s.ctl := rfl
@[simp] theorem drawDot_mapper (s : State) (x y : Nat) : (drawDot s x y).mapper = s.mapper := rfl
@[simp] theorem drawDot_fault (s : State) (x y : Nat) : (drawDot s x y).fault = s.fault := rfl
@[simp] theorem drawDot_cfg (s : State) (x y : Nat) : (drawDot s x y).cfg = s.cfg := rfl
@[simp] theorem drawDot_input (s : State) (x y : Nat) : (drawDot s x y).input = s.input := rfl
@[simp] theorem drawDot_draws (s : State) (x y : Nat) : (drawDot s x y).draws = s.draws := rfl
@[simp] theorem drawDot_apu (s : State) (x y : Nat) : (drawDot s x y).apu = s.apu := rfl
@[simp] theorem drawDot_cycles (s : State) (x y : Nat) : (drawDot s x y).cycles = s.cycles := rfl
@[simp] theorem drawDot_audio (s : State) (x y : Nat) : (drawDot s x y).audio = s.audio := rfl

@[simp] theorem ppuFlagEvents_cpu (s : State) : (ppuFlagEvents s).cpu = s.cpu := by
  unfold ppuFlagEvents; split <;> [rfl; (split <;> rfl)]
@[simp] theorem ppuFlagEvents_ram (s : State) : (ppuFlagEvents s).ram = s.ram := by
  unfold ppuFlagEvents; split <;> [rfl; (split <;> rfl)]
@[simp] theorem ppuFlagEvents_chrRam (s : State) : (ppuFlagEvents s).chrRam = s.chrRam := by
  unfold ppuFlagEvents; split <;> [rfl; (split <;> rfl)]
@[simp] theorem ppuFlagEvents_ctl (s : State) : (ppuFlagEvents s).ctl = s.ctl := by
  unfold ppuFlagEvents; split <;> [rfl; (split <;> rfl)]
@[simp] theorem ppuFlagEvents_mapper (s : State) : (ppuFlagEvents s).mapper = s.mapper := by
  unfold ppuFlagEvents; split <;> [rfl; (split <;> rfl)]
@[simp] theorem ppuFlagEvents_fault (s : State) : (ppuFlagEvents s).fault = s.fault := by
  unfold ppuFlagEvents; split <;> [rfl; (split <;> rfl)]
@[simp] theorem ppuFlagEvents_cfg (s : State) : (ppuFlagEvents s).cfg = s.cfg := by
  unfold ppuFlagEvents; split <;> [rfl; (split <;> rfl)]
@[simp] theorem ppuFlagEvents_input (s : State) : (ppuFlagEvents s).input = s.input := by
  unfold ppuFlagEvents; split <;> [rfl; (split <;> rfl)]
@[simp] theorem ppuFlagEvents_draws (s : State) : (ppuFlagEvents s).draws = s.draws := by
  unfold ppuFlagEvents; split <;> [rfl; (split <;> rfl)]
@[simp] theorem ppuFlagEvents_apu (s : State) : (ppuFlagEvents s).apu = s.apu := by
  unfold ppuFlagEvents; split <;> [rfl; (split <;> rfl)]
@[simp] theorem ppuFlagEvents_cycles (s : State) : (ppuFlagEvents s).cycles = s.cycles := by
  unfold ppuFlagEvents; split <;> [rfl; (split <;> rfl)]
@[simp] theorem ppuFlagEvents_audio (s : State) : (ppuFlagEvents s).audio = s.audio := by
  unfold ppuFlagEvents; split <;> [rfl; (split <;> rfl)]

@[simp] theorem renderDot_cpu (s : State) : (renderDot s).cpu = s.cpu := by
  simp only [renderDot]; repeat' split
  all_goals rfl
@[simp] theorem renderDot_ram (s : State) : (renderDot s).ram = s.ram := by
  simp only [renderDot]; repeat' split
  all_goals rfl
@[simp] theorem renderDot_chrRam (s : State) : (renderDot s).chrRam = s.chrRam := by
  simp only [renderDot]; repeat' split
  all_goals rfl
@[simp] theorem renderDot_ctl (s : State) : (renderDot s).ctl = s.ctl := by
  simp only [renderDot]; repeat' split
  all_goals rfl
@[simp] theorem renderDot_mapper (s : State) : (renderDot s).mapper = s.mapper := by
  simp only [renderDot]; repeat' split
  all_goals rfl
@[simp] theorem renderDot_fault (s : State) : (renderDot s).fault = s.fault := by
  simp only [renderDot]; repeat' split
  all_goals rfl
@[simp] theorem renderDot_cfg (s : State) : (renderDot s).cfg = s.cfg := by
  simp only [renderDot]; repeat' split
  all_goals rfl
@[simp] theorem renderDot_input (s : State) : (renderDot s).input = s.input := by
  simp only [renderDot]; repeat' split
  all_goals rfl
@[simp] theorem renderDot_draws (s : State) : (renderDot s).draws = s.draws := by
  simp only [renderDot]; repeat' split
  all_goals rfl
@[simp] theorem renderDot_apu (s : State) : (renderDot s).apu = s.apu := by
  simp only [renderDot]; repeat' split
  all_goals rfl
@[simp] theorem renderDot_cycles (s : State) : (renderDot s).cycles = s.cycles := by
  simp only [renderDot]; repeat' split
  all_goals rfl
@[simp] theorem renderDot_audio (s : State) : (renderDot s).audio = s.audio := by
  simp only [renderDot]; repeat' split
  all_goals rfl

@[simp] theorem ppuAdvanceDot_cpu (s : State) : (ppuAdvanceDot s).cpu = s.cpu := by
  simp only [ppuAdvanceDot]; split <;> simp
@[simp] theorem ppuAdvanceDot_ram (s : State) : (ppuAdvanceDot s).ram = s.ram := by
  simp only [ppuAdvanceDot]; split <;> simp
@[simp] theorem ppuAdvanceDot_chrRam (s : State) : (ppuAdvanceDot s).chrRam = s.chrRam := by
  simp only [ppuAdvanceDot]; split <;> simp
@[simp] theorem ppuAdvanceDot_ctl (s : State) : (ppuAdvanceDot s).ctl = s.ctl := by
  simp only [ppuAdvanceDot]; split <;> simp
@[simp] theorem ppuAdvanceDot_mapper (s : State) : (ppuAdvanceDot s).mapper = s.mapper := by
  simp only [ppuAdvanceDot]; split <;> simp
@[simp] theorem ppuAdvanceDot_fault (s : State) : (ppuAdvanceDot s).fault = s.fault := by
  simp only [ppuAdvanceDot]; split <;> simp
@[simp] theorem ppuAdvanceDot_cfg (s : State) : (ppuAdvanceDot s).cfg = s.cfg := by
  simp only [ppuAdvanceDot]; split <;> simp
@[simp] theorem ppuAdvanceDot_input (s : State) : (ppuAdvanceDot s).input = s.input := by
  simp only [ppuAdvanceDot]; split <;> simp
@[simp] theorem ppuAdvanceDot_draws (s : State) : (ppuAdvanceDot s).draws = s.draws := by
  simp only [ppuAdvanceDot]; split <;> simp
@[simp] theorem ppuAdvanceDot_apu (s : State) : (ppuAdvanceDot s).apu = s.apu := by
  simp only [ppuAdvanceDot]; split <;> simp
@[simp] theorem ppuAdvanceDot_cycles (s : State) : (ppuAdvanceDot s).cycles = s.cycles := by
  simp only [ppuAdvanceDot]; split <;> simp
@[simp] theorem ppuAdvanceDot_audio (s : State) : (ppuAdvanceDot s).audio = s.audio := by
  simp only [ppuAdvanceDot]; split <;> simp

@[simp] theorem nmiLineEval_ppu (s : State) : (nmiLineEval s).ppu = s.ppu := rfl
@[simp] theorem videoHandOff_ppu (s : State) : (videoHandOff s).ppu = s.ppu := rfl
@[simp] theorem nextPos_ctrl (s : State) : s.ppu.nextPos.ctrl = s.ppu.ctrl := by
  simp only [Ppu.nextPos]; split <;> rfl
@[simp] theorem nextPos_mask (s : State) : s.ppu.nextPos.mask = s.ppu.mask := by
  simp only [Ppu.nextPos]; split <;> rfl
@[simp] theorem nextPos_oamAddr (s : State) : s.ppu.nextPos.oamAddr = s.ppu.oamAddr := by
  simp only [Ppu.nextPos]; split <;> rfl
@[simp] theorem nextPos_oam (s : State) : s.ppu.nextPos.oam = s.ppu.oam := by
  simp only [Ppu.nextPos]; split <;> rfl
@[simp] theorem nextPos_addrLatch (s : State) : s.ppu.nextPos.addrLatch = s.ppu.addrLatch := by
  simp only [Ppu.nextPos]; split <;> rfl
@[simp] theorem nextPos_scrollLatch (s : State) : s.ppu.nextPos.scrollLatch = s.ppu.scrollLatch := by
  simp only [Ppu.nextPos]; split <;> rfl
@[simp] theorem nextPos_vramAddr (s : State) : s.ppu.nextPos.vramAddr = s.ppu.vramAddr := by
  simp only [Ppu.nextPos]; split <;> rfl
@[simp] theorem nextPos_scrollX (s : State) : s.ppu.nextPos.scrollX = s.ppu.scrollX := by
  simp only [Ppu.nextPos]; split <;> rfl
@[simp] theorem nextPos_scrollY (s : State) : s.ppu.nextPos.scrollY = s.ppu.scrollY := by
  simp only [Ppu.nextPos]; split <;> rfl
@[simp] theorem nextPos_readBuffer (s : State) : s.ppu.nextPos.readBuffer = s.ppu.readBuffer := by
  simp only [Ppu.nextPos]; split <;> rfl
@[simp] theorem nextPos_nametable (s : State) : s.ppu.nextPos.nametable = s.ppu.nametable := by
  simp only [Ppu.nextPos]; split <;> rfl
@[simp] theorem nextPos_palette (s : State) : s.ppu.nextPos.palette = s.ppu.palette := by
  simp only [Ppu.nextPos]; split <;> rfl
@[simp] theorem ppuFlagEvents_ppu_ctrl (s : State) : (ppuFlagEvents s).ppu.ctrl = s.ppu.ctrl := by
  unfold ppuFlagEvents; split <;> [rfl; (split <;> rfl)]
@[simp] theorem ppuFlagEvents_ppu_mask (s : State) : (ppuFlagEvents s).ppu.mask = s.ppu.mask := by
  unfold ppuFlagEvents; split <;> [rfl; (split <;> rfl)]
@[simp] theorem ppuFlagEvents_ppu_oamAddr (s : State) : (ppuFlagEvents s).ppu.oamAddr = s.ppu.oamAddr := by
  unfold ppuFlagEvents; split <;> [rfl; (split <;> rfl)]
@[simp] theorem ppuFlagEvents_ppu_oam (s : State) : (ppuFlagEvents s).ppu.oam = s.ppu.oam := by
  unfold ppuFlagEvents; split <;> [rfl; (split <;> rfl)]
@[simp] theorem ppuFlagEvents_ppu_addrLatch (s : State) : (ppuFlagEvents s).ppu.addrLatch = s.ppu.addrLatch := by
  unfold ppuFlagEvents; split <;> [rfl; (split <;> rfl)]
@[simp] theorem ppuFlagEvents_ppu_scrollLatch (s : State) : (ppuFlagEvents s).ppu.scrollLatch = s.ppu.scrollLatch := by
  unfold ppuFlagEvents; split <;> [rfl; (split <;> rfl)]
@[simp] theorem ppuFlagEvents_ppu_vramAddr (s : State) : (ppuFlagEvents s).ppu.vramAddr = s.ppu.vramAddr := by
  unfold ppuFlagEvents; split <;> [rfl; (split <;> rfl)]
@[simp] theorem ppuFlagEvents_ppu_scrollX (s : State) : (ppuFlagEvents s).ppu.scrollX = s.ppu.scrollX := by
  unfold ppuFlagEvents; split <;> [rfl; (split <;> rfl)]
@[simp] theorem ppuFlagEvents_ppu_scrollY (s : State) : (ppuFlagEvents s).ppu.scrollY = s.ppu.scrollY := by
  unfold ppuFlagEvents; split <;> [rfl; (split <;> rfl)]
@[simp] theorem ppuFlagEvents_ppu_readBuffer (s : State) : (ppuFlagEvents s).ppu.readBuffer = s.ppu.readBuffer := by
  unfold ppuFlagEvents; split <;> [rfl; (split <;> rfl)]
@[simp] theorem ppuFlagEvents_ppu_nametable (s : State) : (ppuFlagEvents s).ppu.nametable = s.ppu.nametable := by
  unfold ppuFlagEvents; split <;> [rfl; (split <;> rfl)]
@[simp] theorem ppuFlagEvents_ppu_palette (s : State) : (ppuFlagEvents s).ppu.palette = s.ppu.palette := by
  unfold ppuFlagEvents; split <;> [rfl; (split <;> rfl)]
@[simp] theorem renderDot_ppu_ctrl (s : State) : (renderDot s).ppu.ctrl = s.ppu.ctrl := by
  simp only [renderDot]; repeat' split
  all_goals rfl
@[simp] theorem renderDot_ppu_mask (s : State) : (renderDot s).ppu.mask = s.ppu.mask := by
  simp only [renderDot]; repeat' split
  all_goals rfl
@[simp] theorem renderDot_ppu_oamAddr (s : State) : (renderDot s).ppu.oamAddr = s.ppu.oamAddr := by
  simp only [renderDot]; repeat' split
  all_goals rfl
@[simp] theorem renderDot_ppu_oam (s : State) : (renderDot s).ppu.oam = s.ppu.oam := by
  simp only [renderDot]; repeat' split
  all_goals rfl
@[simp] theorem renderDot_ppu_addrLatch (s : State) : (renderDot s).ppu.addrLatch = s.ppu.addrLatch := by
  simp only [renderDot]; repeat' split
  all_goals rfl
@[simp] theorem renderDot_ppu_scrollLatch (s : State) : (renderDot s).ppu.scrollLatch = s.ppu.scrollLatch := by
  simp only [renderDot]; repeat' split
  all_goals rfl
@[simp] theorem renderDot_ppu_vramAddr (s : State) : (renderDot s).ppu.vramAddr = s.ppu.vramAddr := by
  simp only [renderDot]; repeat' split
  all_goals rfl
@[simp] theorem renderDot_ppu_scrollX (s : State) : (renderDot s).ppu.scrollX = s.ppu.scrollX := by
  simp only [renderDot]; repeat' split
  all_goals rfl
@[simp] theorem renderDot_ppu_scrollY (s : State) : (renderDot s).ppu.scrollY = s.ppu.scrollY := by
  simp only [renderDot]; repeat' split
  all_goals rfl
@[simp] theorem renderDot_ppu_readBuffer (s : State) : (renderDot s).ppu.readBuffer = s.ppu.readBuffer := by
  simp only [renderDot]; repeat' split
  all_goals rfl
@[simp] theorem renderDot_ppu_nametable (s : State) : (renderDot s).ppu.nametable = s.ppu.nametable := by
  simp only [renderDot]; repeat' split
  all_goals rfl
@[simp] theorem renderDot_ppu_palette (s : State) : (renderDot s).ppu.palette = s.ppu.palette := by
  simp only [renderDot]; repeat' split
  all_goals rfl
@[simp] theorem ppuAdvanceDot_ppu_ctrl (s : State) : (ppuAdvanceDot s).ppu.ctrl = s.ppu.ctrl := by
  simp only [ppuAdvanceDot]; split <;> simp
@[simp] theorem ppuAdvanceDot_ppu_mask (s : State) : (ppuAdvanceDot s).ppu.mask = s.ppu.mask := by
  simp only [ppuAdvanceDot]; split <;> simp
@[simp] theorem ppuAdvanceDot_ppu_oamAddr (s : State) : (ppuAdvanceDot s).ppu.oamAddr = s.ppu.oamAddr := by
  simp only [ppuAdvanceDot]; split <;> simp
@[simp] theorem ppuAdvanceDot_ppu_oam (s : State) : (ppuAdvanceDot s).ppu.oam = s.ppu.oam := by
  simp only [ppuAdvanceDot]; split <;> simp
@[simp] theorem ppuAdvanceDot_ppu_addrLatch (s : State) : (ppuAdvanceDot s).ppu.addrLatch = s.ppu.addrLatch := by
  simp only [ppuAdvanceDot]; split <;> simp
@[simp] theorem ppuAdvanceDot_ppu_scrollLatch (s : State) : (ppuAdvanceDot s).ppu.scrollLatch = s.ppu.scrollLatch := by
  simp only [ppuAdvanceDot]; split <;> simp
@[simp] theorem ppuAdvanceDot_ppu_vramAddr (s : State) : (ppuAdvanceDot s).ppu.vramAddr = s.ppu.vramAddr := by
  simp only [ppuAdvanceDot]; split <;> simp
@[simp] theorem ppuAdvanceDot_ppu_scrollX (s : State) : (ppuAdvanceDot s).ppu.scrollX = s.ppu.scrollX := by
  simp only [ppuAdvanceDot]; split <;> simp
@[simp] theorem ppuAdvanceDot_ppu_scrollY (s : State) : (ppuAdvanceDot s).ppu.scrollY = s.ppu.scrollY := by
  simp only [ppuAdvanceDot]; split <;> simp
@[simp] theorem ppuAdvanceDot_ppu_readBuffer (s : State) : (ppuAdvanceDot s).ppu.readBuffer = s.ppu.readBuffer := by
  simp only [ppuAdvanceDot]; split <;> simp
@[simp] theorem ppuAdvanceDot_ppu_nametable (s : State) : (ppuAdvanceDot s).ppu.nametable = s.ppu.nametable := by
  simp only [ppuAdvanceDot]; split <;> simp
@[simp] theorem ppuAdvanceDot_ppu_palette (s : State) : (ppuAdvanceDot s).ppu.palette = s.ppu.palette := by
  simp only [ppuAdvanceDot]; split <;> simp

@[simp] theorem sampleTimerAdvance_cpu (s : State) : (sampleTimerAdvance s).cpu = s.cpu := by
  simp only [sampleTimerAdvance]; repeat' split
  all_goals rfl
@[simp] theorem sampleTimerAdvance_ram (s : State) : (sampleTimerAdvance s).ram = s.ram := by
  simp only [sampleTimerAdvance]; repeat' split
  all_goals rfl
@[simp] theorem sampleTimerAdvance_chrRam (s : State) : (sampleTimerAdvance s).chrRam = s.chrRam := by
  simp only [sampleTimerAdvance]; repeat' split
  all_goals rfl
@[simp] theorem sampleTimerAdvance_ctl (s : State) : (sampleTimerAdvance s).ctl = s.ctl := by
  simp only [sampleTimerAdvance]; repeat' split
  all_goals rfl
@[simp] theorem sampleTimerAdvance_mapper (s : State) : (sampleTimerAdvance s).mapper = s.mapper := by
  simp only [sampleTimerAdvance]; repeat' split
  all_goals rfl
@[simp] theorem sampleTimerAdvance_fault (s : State) : (sampleTimerAdvance s).fault = s.fault := by
  simp only [sampleTimerAdvance]; repeat' split
  all_goals rfl
@[simp] theorem sampleTimerAdvance_cfg (s : State) : (sampleTimerAdvance s).cfg = s.cfg := by
  simp only [sampleTimerAdvance]; repeat' split
  all_goals rfl
@[simp] theorem sampleTimerAdvance_input (s : State) : (sampleTimerAdvance s).input = s.input := by
  simp only [sampleTimerAdvance]; repeat' split
  all_goals rfl
@[simp] theorem sampleTimerAdvance_draws (s : State) : (sampleTimerAdvance s).draws = s.draws := by
  simp only [sampleTimerAdvance]; repeat' split
  all_goals rfl
@[simp] theorem sampleTimerAdvance_ppu (s : State) : (sampleTimerAdvance s).ppu = s.ppu := by
  simp only [sampleTimerAdvance]; repeat' split
  all_goals rfl
@[simp] theorem sampleTimerAdvance_nmiLinePrev (s : State) : (sampleTimerAdvance s).nmiLinePrev = s.nmiLinePrev := by
  simp only [sampleTimerAdvance]; repeat' split
  all_goals rfl
@[simp] theorem sampleTimerAdvance_nmiQueued (s : State) : (sampleTimerAdvance s).nmiQueued = s.nmiQueued := by
  simp only [sampleTimerAdvance]; repeat' split
  all_goals rfl
@[simp] theorem sampleTimerAdvance_cycles (s : State) : (sampleTimerAdvance s).cycles = s.cycles := by
  simp only [sampleTimerAdvance]; repeat' split
  all_goals rfl
@[simp] theorem sampleTimerAdvance_video (s : State) : (sampleTimerAdvance s).video = s.video := by
  simp only [sampleTimerAdvance]; repeat' split
  all_goals rfl
@[simp] theorem apuAdvance_cpu (s : State) : (apuAdvance s).cpu = s.cpu := by simp [apuAdvance]
@[simp] theorem apuAdvance_ram (s : State) : (apuAdvance s).ram = s.ram := by simp [apuAdvance]
@[simp] theorem apuAdvance_chrRam (s : State) : (apuAdvance s).chrRam = s.chrRam := by simp [apuAdvance]
@[simp] theorem apuAdvance_ctl (s : State) : (apuAdvance s).ctl = s.ctl := by simp [apuAdvance]
@[simp] theorem apuAdvance_mapper (s : State) : (apuAdvance s).mapper = s.mapper := by simp [apuAdvance]
@[simp] theorem apuAdvance_fault (s : State) : (apuAdvance s).fault = s.fault := by simp [apuAdvance]
@[simp] theorem apuAdvance_cfg (s : State) : (apuAdvance s).cfg = s.cfg := by simp [apuAdvance]
@[simp] theorem apuAdvance_input (s : State) : (apuAdvance s).input = s.input := by simp [apuAdvance]
@[simp] theorem apuAdvance_draws (s : State) : (apuAdvance s).draws = s.draws := by simp [apuAdvance]
@[simp] theorem apuAdvance_ppu (s : State) : (apuAdvance s).ppu = s.ppu := by simp [apuAdvance]
@[simp] theorem apuAdvance_nmiLinePrev (s : State) : (apuAdvance s).nmiLinePrev = s.nmiLinePrev := by simp [apuAdvance]
@[simp] theorem apuAdvance_nmiQueued (s : State) : (apuAdvance s).nmiQueued = s.nmiQueued := by simp [apuAdvance]
@[simp] theorem apuAdvance_cycles (s : State) : (apuAdvance s).cycles = s.cycles := by simp [apuAdvance]
@[simp] theorem apuAdvance_video (s : State) : (apuAdvance s).video = s.video := by simp [apuAdvance]

/-! ## The tick (R64) -/

@[simp] theorem tick_cpu (s : State) : (tick s).cpu = s.cpu := by simp [tick]
@[simp] theorem tick_ram (s : State) : (tick s).ram = s.ram := by simp [tick]
@[simp] theorem tick_chrRam (s : State) : (tick s).chrRam = s.chrRam := by simp [tick]
@[simp] theorem tick_ctl (s : State) : (tick s).ctl = s.ctl := by simp [tick]
@[simp] theorem tick_mapper (s : State) : (tick s).mapper = s.mapper := by simp [tick]
@[simp] theorem tick_fault (s : State) : (tick s).fault = s.fault := by simp [tick]
@[simp] theorem tick_cfg (s : State) : (tick s).cfg = s.cfg := by simp [tick]
@[simp] theorem tick_input (s : State) : (tick s).input = s.input := by simp [tick]
@[simp] theorem tick_draws (s : State) : (tick s).draws = s.draws := by simp [tick]
@[simp] theorem tick_cycles (s : State) : (tick s).cycles = s.cycles + 1 := by simp [tick]
@[simp] theorem tick_ppu_ctrl (s : State) : (tick s).ppu.ctrl = s.ppu.ctrl := by simp [tick]
@[simp] theorem tick_ppu_mask (s : State) : (tick s).ppu.mask = s.ppu.mask := by simp [tick]
@[simp] theorem tick_ppu_oamAddr (s : State) : (tick s).ppu.oamAddr = s.ppu.oamAddr := by simp [tick]
@[simp] theorem tick_ppu_oam (s : State) : (tick s).ppu.oam = s.ppu.oam := by simp [tick]
@[simp] theorem tick_ppu_addrLatch (s : State) : (tick s).ppu.addrLatch = s.ppu.addrLatch := by simp [tick]
@[simp] theorem tick_ppu_scrollLatch (s : State) : (tick s).ppu.scrollLatch = s.ppu.scrollLatch := by simp [tick]
@[simp] theorem tick_ppu_vramAddr (s : State) : (tick s).ppu.vramAddr = s.ppu.vramAddr := by simp [tick]
@[simp] theorem tick_ppu_scrollX (s : State) : (tick s).ppu.scrollX = s.ppu.scrollX := by simp [tick]
@[simp] theorem tick_ppu_scrollY (s : State) : (tick s).ppu.scrollY = s.ppu.scrollY := by simp [tick]
@[simp] theorem tick_ppu_readBuffer (s : State) : (tick s).ppu.readBuffer = s.ppu.readBuffer := by simp [tick]
@[simp] theorem tick_ppu_nametable (s : State) : (tick s).ppu.nametable = s.ppu.nametable := by simp [tick]
@[simp] theorem tick_ppu_palette (s : State) : (tick s).ppu.palette = s.ppu.palette := by simp [tick]

/-! ## Decoded reads -/

@[simp] theorem drawByte_cpu (s : State) : (drawByte s).2.cpu = s.cpu := rfl
@[simp] theorem drawByte_ram (s : State) : (drawByte s).2.ram = s.ram := rfl
@[simp] theorem drawByte_chrRam (s : State) : (drawByte s).2.chrRam = s.chrRam := rfl
@[simp] theorem drawByte_ppu (s : State) : (drawByte s).2.ppu = s.ppu := rfl
@[simp] theorem drawByte_apu (s : State) : (drawByte s).2.apu = s.apu := rfl
@[simp] theorem drawByte_ctl (s : State) : (drawByte s).2.ctl = s.ctl := rfl
@[simp] theorem drawByte_mapper (s : State) : (drawByte s).2.mapper = s.mapper := rfl
@[simp] theorem drawByte_nmiLinePrev (s : State) : (drawByte s).2.nmiLinePrev = s.nmiLinePrev := rfl
@[simp] theorem drawByte_nmiQueued (s : State) : (drawByte s).2.nmiQueued = s.nmiQueued := rfl
@[simp] theorem drawByte_cycles (s : State) : (drawByte s).2.cycles = s.cycles := rfl
@[simp] theorem drawByte_fault (s : State) : (drawByte s).2.fault = s.fault := rfl
@[simp] theorem drawByte_cfg (s : State) : (drawByte s).2.cfg = s.cfg := rfl
@[simp] theorem drawByte_input (s : State) : (drawByte s).2.input = s.input := rfl
@[simp] theorem drawByte_draws (s : State) : (drawByte s).2.draws = s.draws + 1 := rfl
@[simp] theorem drawByte_video (s : State) : (drawByte s).2.video = s.video := rfl
@[simp] theorem drawByte_audio (s : State) : (drawByte s).2.audio = s.audio := rfl
@[simp] theorem ppuRegRead_cpu (s : State) (r : PpuReg) : (ppuRegRead r s).2.cpu = s.cpu := by
  cases r <;> simp only [ppuRegRead, ppuStatusRead, ppuDataRead] <;> first | rfl | (split <;> rfl)
@[simp] theorem ppuRegRead_ram (s : State) (r : PpuReg) : (ppuRegRead r s).2.ram = s.ram := by
  cases r <;> simp only [ppuRegRead, ppuStatusRead, ppuDataRead] <;> first | rfl | (split <;> rfl)
@[simp] theorem ppuRegRead_chrRam (s : State) (r : PpuReg) : (ppuRegRead r s).2.chrRam = s.chrRam := by
  cases r <;> simp only [ppuRegRead, ppuStatusRead, ppuDataRead] <;> first | rfl | (split <;> rfl)
@[simp] theorem ppuRegRead_apu (s : State) (r : PpuReg) : (ppuRegRead r s).2.apu = s.apu := by
  cases r <;> simp only [ppuRegRead, ppuStatusRead, ppuDataRead] <;> first | rfl | (split <;> rfl)
@[simp] theorem ppuRegRead_mapper (s : State) (r : PpuReg) : (ppuRegRead r s).2.mapper = s.mapper := by
  cases r <;> simp only [ppuRegRead, ppuStatusRead, ppuDataRead] <;> first | rfl | (split <;> rfl)
@[simp] theorem ppuRegRead_cycles (s : State) (r : PpuReg) : (ppuRegRead r s).2.cycles = s.cycles := by
  cases r <;> simp only [ppuRegRead, ppuStatusRead, ppuDataRead] <;> first | rfl | (split <;> rfl)
@[simp] theorem ppuRegRead_fault (s : State) (r : PpuReg) : (ppuRegRead r s).2.fault = s.fault := by
  cases r <;> simp only [ppuRegRead, ppuStatusRead, ppuDataRead] <;> first | rfl | (split <;> rfl)
@[simp] theorem ppuRegRead_cfg (s : State) (r : PpuReg) : (ppuRegRead r s).2.cfg = s.cfg := by
  cases r <;> simp only [ppuRegRead, ppuStatusRead, ppuDataRead] <;> first | rfl | (split <;> rfl)
@[simp] theorem ppuRegRead_input (s : State) (r : PpuReg) : (ppuRegRead r s).2.input = s.input := by
  cases r <;> simp only [ppuRegRead, ppuStatusRead, ppuDataRead] <;> first | rfl | (split <;> rfl)
@[simp] theorem ppuRegRead_video (s : State) (r : PpuReg) : (ppuRegRead r s).2.video = s.video := by
  cases r <;> simp only [ppuRegRead, ppuStatusRead, ppuDataRead] <;> first | rfl | (split <;> rfl)
@[simp] theorem ppuRegRead_audio (s : State) (r : PpuReg) : (ppuRegRead r s).2.audio = s.audio := by
  cases r <;> simp only [ppuRegRead, ppuStatusRead, ppuDataRead] <;> first | rfl | (split <;> rfl)
@[simp] theorem ppuRegRead_ctl (s : State) (r : PpuReg) : (ppuRegRead r s).2.ctl = s.ctl := by
  cases r <;> simp only [ppuRegRead, ppuStatusRead, ppuDataRead] <;> first | rfl | (split <;> rfl)
@[simp] theorem ppuRegRead_ppu_oam (s : State) (r : PpuReg) : (ppuRegRead r s).2.ppu.oam = s.ppu.oam := by
  cases r <;> simp only [ppuRegRead, ppuStatusRead, ppuDataRead] <;> first | rfl | (split <;> rfl)
@[simp] theorem ppuRegRead_ppu_nametable (s : State) (r : PpuReg) : (ppuRegRead r s).2.ppu.nametable = s.ppu.nametable := by
  cases r <;> simp only [ppuRegRead, ppuStatusRead, ppuDataRead] <;> first | rfl | (split <;> rfl)
@[simp] theorem ppuRegRead_ppu_palette (s : State) (r : PpuReg) : (ppuRegRead r s).2.ppu.palette = s.ppu.palette := by
  cases r <;> simp only [ppuRegRead, ppuStatusRead, ppuDataRead] <;> first | rfl | (split <;> rfl)
@[simp] theorem ppuRegRead_ppu_oamAddr (s : State) (r : PpuReg) : (ppuRegRead r s).2.ppu.oamAddr = s.ppu.oamAddr := by
  cases r <;> simp only [ppuRegRead, ppuStatusRead, ppuDataRead] <;> first | rfl | (split <;> rfl)
@[simp] theorem ppuRegRead_ppu_ctrl (s : State) (r : PpuReg) : (ppuRegRead r s).2.ppu.ctrl = s.ppu.ctrl := by
  cases r <;> simp only [ppuRegRead, ppuStatusRead, ppuDataRead] <;> first | rfl | (split <;> rfl)
@[simp] theorem ppuRegRead_ppu_mask (s : State) (r : PpuReg) : (ppuRegRead r s).2.ppu.mask = s.ppu.mask := by
  cases r <;> simp only [ppuRegRead, ppuStatusRead, ppuDataRead] <;> first | rfl | (split <;> rfl)
@[simp] theorem ppuRegRead_ppu_scrollX (s : State) (r : PpuReg) : (ppuRegRead r s).2.ppu.scrollX = s.ppu.scrollX := by
  cases r <;> simp only [ppuRegRead, ppuStatusRead, ppuDataRead] <;> first | rfl | (split <;> rfl)
@[simp] theorem ppuRegRead_ppu_scrollY (s : State) (r : PpuReg) : (ppuRegRead r s).2.ppu.scrollY = s.ppu.scrollY := by
  cases r <;> simp only [ppuRegRead, ppuStatusRead, ppuDataRead] <;> first | rfl | (split <;> rfl)
@[simp] theorem controllerRead_cpu (s : State) : (controllerRead s).2.cpu = s.cpu := by
  simp only [controllerRead]; split <;> rfl
@[simp] theorem controllerRead_ram (s : State) : (controllerRead s).2.ram = s.ram := by
  simp only [controllerRead]; split <;> rfl
@[simp] theorem controllerRead_chrRam (s : State) : (controllerRead s).2.chrRam = s.chrRam := by
  simp only [controllerRead]; split <;> rfl
@[simp] theorem controllerRead_ppu (s : State) : (controllerRead s).2.ppu = s.ppu := by
  simp only [controllerRead]; split <;> rfl
@[simp] theorem controllerRead_apu (s : State) : (controllerRead s).2.apu = s.apu := by
  simp only [controllerRead]; split <;> rfl
@[simp] theorem controllerRead_mapper (s : State) : (controllerRead s).2.mapper = s.mapper := by
  simp only [controllerRead]; split <;> rfl
@[simp] theorem controllerRead_nmiLinePrev (s : State) : (controllerRead s).2.nmiLinePrev = s.nmiLinePrev := by
  simp only [controllerRead]; split <;> rfl
@[simp] theorem controllerRead_nmiQueued (s : State) : (controllerRead s).2.nmiQueued = s.nmiQueued := by
  simp only [controllerRead]; split <;> rfl
@[simp] theorem controllerRead_cycles (s : State) : (controllerRead s).2.cycles = s.cycles := by
  simp only [controllerRead]; split <;> rfl
@[simp] theorem controllerRead_fault (s : State) : (controllerRead s).2.fault = s.fault := by
  simp only [controllerRead]; split <;> rfl
@[simp] theorem controllerRead_cfg (s : State) : (controllerRead s).2.cfg = s.cfg := by
  simp only [controllerRead]; split <;> rfl
@[simp] theorem controllerRead_input (s : State) : (controllerRead s).2.input = s.input := by
  simp only [controllerRead]; split <;> rfl
@[simp] theorem controllerRead_draws (s : State) : (controllerRead s).2.draws = s.draws := by
  simp only [controllerRead]; split <;> rfl
@[simp] theorem controllerRead_video (s : State) : (controllerRead s).2.video = s.video := by
  simp only [controllerRead]; split <;> rfl
@[simp] theorem controllerRead_audio (s : State) : (controllerRead s).2.audio = s.audio := by
  simp only [controllerRead]; split <;> rfl
@[simp] theorem mapperRead_cpu (s : State) (a : Word) : (mapperRead a s).2.cpu = s.cpu := by
  simp only [mapperRead]; split <;> rfl
@[simp] theorem mapperRead_ram (s : State) (a : Word) : (mapperRead a s).2.ram = s.ram := by
  simp only [mapperRead]; split <;> rfl
@[simp] theorem mapperRead_chrRam (s : State) (a : Word) : (mapperRead a s).2.chrRam = s.chrRam := by
  simp only [mapperRead]; split <;> rfl
@[simp] theorem mapperRead_ppu (s : State) (a : Word) : (mapperRead a s).2.ppu = s.ppu := by
  simp only [mapperRead]; split <;> rfl
@[simp] theorem mapperRead_apu (s : State) (a : Word) : (mapperRead a s).2.apu = s.apu := by
  simp only [mapperRead]; split <;> rfl
@[simp] theorem mapperRead_ctl (s : State) (a : Word) : (mapperRead a s).2.ctl = s.ctl := by
  simp only [mapperRead]; split <;> rfl
@[simp] theorem mapperRead_mapper (s : State) (a : Word) : (mapperRead a s).2.mapper = s.mapper := by
  simp only [mapperRead]; split <;> rfl
@[simp] theorem mapperRead_nmiLinePrev (s : State) (a : Word) : (mapperRead a s).2.nmiLinePrev = s.nmiLinePrev := by
  simp only [mapperRead]; split <;> rfl
@[simp] theorem mapperRead_nmiQueued (s : State) (a : Word) : (mapperRead a s).2.nmiQueued = s.nmiQueued := by
  simp only [mapperRead]; split <;> rfl
@[simp] theorem mapperRead_cycles (s : State) (a : Word) : (mapperRead a s).2.cycles = s.cycles := by
  simp only [mapperRead]; split <;> rfl
@[simp] theorem mapperRead_fault (s : State) (a : Word) : (mapperRead a s).2.fault = s.fault := by
  simp only [mapperRead]; split <;> rfl
@[simp] theorem mapperRead_cfg (s : State) (a : Word) : (mapperRead a s).2.cfg = s.cfg := by
  simp only [mapperRead]; split <;> rfl
@[simp] theorem mapperRead_input (s : State) (a : Word) : (mapperRead a s).2.input = s.input := by
  simp only [mapperRead]; split <;> rfl
@[simp] theorem mapperRead_video (s : State) (a : Word) : (mapperRead a s).2.video = s.video := by
  simp only [mapperRead]; split <;> rfl
@[simp] theorem mapperRead_audio (s : State) (a : Word) : (mapperRead a s).2.audio = s.audio := by
  simp only [mapperRead]; split <;> rfl
@[simp] theorem busDecodeRead_cpu (s : State) (a : Word) : (busDecodeRead a s).2.cpu = s.cpu := by
  simp only [busDecodeRead]; repeat' split
  all_goals simp
@[simp] theorem busDecodeRead_ram (s : State) (a : Word) : (busDecodeRead a s).2.ram = s.ram := by
  simp only [busDecodeRead]; repeat' split
  all_goals simp
@[simp] theorem busDecodeRead_chrRam (s : State) (a : Word) : (busDecodeRead a s).2.chrRam = s.chrRam := by
  simp only [busDecodeRead]; repeat' split
  all_goals simp
@[simp] theorem busDecodeRead_apu (s : State) (a : Word) : (busDecodeRead a s).2.apu = s.apu := by
  simp only [busDecodeRead]; repeat' split
  all_goals simp
@[simp] theorem busDecodeRead_mapper (s : State) (a : Word) : (busDecodeRead a s).2.mapper = s.mapper := by
  simp only [busDecodeRead]; repeat' split
  all_goals simp
@[simp] theorem busDecodeRead_cycles (s : State) (a : Word) : (busDecodeRead a s).2.cycles = s.cycles := by
  simp only [busDecodeRead]; repeat' split
  all_goals simp
@[simp] theorem busDecodeRead_fault (s : State) (a : Word) : (busDecodeRead a s).2.fault = s.fault := by
  simp only [busDecodeRead]; repeat' split
  all_goals simp
@[simp] theorem busDecodeRead_cfg (s : State) (a : Word) : (busDecodeRead a s).2.cfg = s.cfg := by
  simp only [busDecodeRead]; repeat' split
  all_goals simp
@[simp] theorem busDecodeRead_input (s : State) (a : Word) : (busDecodeRead a s).2.input = s.input := by
  simp only [busDecodeRead]; repeat' split
  all_goals simp
@[simp] theorem busDecodeRead_video (s : State) (a : Word) : (busDecodeRead a s).2.video = s.video := by
  simp only [busDecodeRead]; repeat' split
  all_goals simp
@[simp] theorem busDecodeRead_audio (s : State) (a : Word) : (busDecodeRead a s).2.audio = s.audio := by
  simp only [busDecodeRead]; repeat' split
  all_goals simp
@[simp] theorem busDecodeRead_ppu_oam (s : State) (a : Word) : (busDecodeRead a s).2.ppu.oam = s.ppu.oam := by
  simp only [busDecodeRead]; repeat' split
  all_goals simp
@[simp] theorem busDecodeRead_ppu_nametable (s : State) (a : Word) : (busDecodeRead a s).2.ppu.nametable = s.ppu.nametable := by
  simp only [busDecodeRead]; repeat' split
  all_goals simp
@[simp] theorem busDecodeRead_ppu_palette (s : State) (a : Word) : (busDecodeRead a s).2.ppu.palette = s.ppu.palette := by
  simp only [busDecodeRead]; repeat' split
  all_goals simp
@[simp] theorem busDecodeRead_ppu_oamAddr (s : State) (a : Word) : (busDecodeRead a s).2.ppu.oamAddr = s.ppu.oamAddr := by
  simp only [busDecodeRead]; repeat' split
  all_goals simp
@[simp] theorem busDecodeRead_ppu_ctrl (s : State) (a : Word) : (busDecodeRead a s).2.ppu.ctrl = s.ppu.ctrl := by
  simp only [busDecodeRead]; repeat' split
  all_goals simp
@[simp] theorem busDecodeRead_ppu_mask (s : State) (a : Word) : (busDecodeRead a s).2.ppu.mask = s.ppu.mask := by
  simp only [busDecodeRead]; repeat' split
  all_goals simp
@[simp] theorem busDecodeRead_ppu_scrollX (s : State) (a : Word) : (busDecodeRead a s).2.ppu.scrollX = s.ppu.scrollX := by
  simp only [busDecodeRead]; repeat' split
  all_goals simp
@[simp] theorem busDecodeRead_ppu_scrollY (s : State) (a : Word) : (busDecodeRead a s).2.ppu.scrollY = s.ppu.scrollY := by
  simp only [busDecodeRead]; repeat' split
  all_goals simp

/-! ## MemRead (R62) -/

@[simp] theorem memRead_cpu (s : State) (a : Word) : (memRead a s).2.cpu = s.cpu := by simp [memRead]
@[simp] theorem memRead_ram (s : State) (a : Word) : (memRead a s).2.ram = s.ram := by simp [memRead]
@[simp] theorem memRead_chrRam (s : State) (a : Word) : (memRead a s).2.chrRam = s.chrRam := by simp [memRead]
@[simp] theorem memRead_mapper (s : State) (a : Word) : (memRead a s).2.mapper = s.mapper := by simp [memRead]
@[simp] theorem memRead_fault (s : State) (a : Word) : (memRead a s).2.fault = s.fault := by simp [memRead]
@[simp] theorem memRead_cfg (s : State) (a : Word) : (memRead a s).2.cfg = s.cfg := by simp [memRead]
@[simp] theorem memRead_input (s : State) (a : Word) : (memRead a s).2.input = s.input := by simp [memRead]
@[simp] theorem memRead_cycles (s : State) (a : Word) : (memRead a s).2.cycles = s.cycles + 1 := by simp [memRead]
@[simp] theorem memRead_ppu_oam (s : State) (a : Word) : (memRead a s).2.ppu.oam = s.ppu.oam := by simp [memRead]
@[simp] theorem memRead_ppu_nametable (s : State) (a : Word) : (memRead a s).2.ppu.nametable = s.ppu.nametable := by simp [memRead]
@[simp] theorem memRead_ppu_palette (s : State) (a : Word) : (memRead a s).2.ppu.palette = s.ppu.palette := by simp [memRead]
@[simp] theorem memRead_ppu_oamAddr (s : State) (a : Word) : (memRead a s).2.ppu.oamAddr = s.ppu.oamAddr := by simp [memRead]
@[simp] theorem memRead_ppu_ctrl (s : State) (a : Word) : (memRead a s).2.ppu.ctrl = s.ppu.ctrl := by simp [memRead]
@[simp] theorem memRead_ppu_mask (s : State) (a : Word) : (memRead a s).2.ppu.mask = s.ppu.mask := by simp [memRead]
@[simp] theorem memRead_ppu_scrollX (s : State) (a : Word) : (memRead a s).2.ppu.scrollX = s.ppu.scrollX := by simp [memRead]
@[simp] theorem memRead_ppu_scrollY (s : State) (a : Word) : (memRead a s).2.ppu.scrollY = s.ppu.scrollY := by simp [memRead]
@[simp] theorem dummyRead_cpu (s : State) (a : Word) : (dummyRead a s).cpu = s.cpu := by simp [dummyRead]
@[simp] theorem dummyRead_ram (s : State) (a : Word) : (dummyRead a s).ram = s.ram := by simp [dummyRead]
@[simp] theorem dummyRead_chrRam (s : State) (a : Word) : (dummyRead a s).chrRam = s.chrRam := by simp [dummyRead]
@[simp] theorem dummyRead_mapper (s : State) (a : Word) : (dummyRead a s).mapper = s.mapper := by simp [dummyRead]
@[simp] theorem dummyRead_fault (s : State) (a : Word) : (dummyRead a s).fault = s.fault := by simp [dummyRead]
@[simp] theorem dummyRead_cfg (s : State) (a : Word) : (dummyRead a s).cfg = s.cfg := by simp [dummyRead]
@[simp] theorem dummyRead_input (s : State) (a : Word) : (dummyRead a s).input = s.input := by simp [dummyRead]
@[simp] theorem dummyRead_cycles (s : State) (a : Word) : (dummyRead a s).cycles = s.cycles + 1 := by simp [dummyRead]
@[simp] theorem dummyRead_ppu_oam (s : State) (a : Word) : (dummyRead a s).ppu.oam = s.ppu.oam := by simp [dummyRead]
@[simp] theorem dummyRead_ppu_nametable (s : State) (a : Word) : (dummyRead a s).ppu.nametable = s.ppu.nametable := by simp [dummyRead]
@[simp] theorem dummyRead_ppu_palette (s : State) (a : Word) : (dummyRead a s).ppu.palette = s.ppu.palette := by simp [dummyRead]
@[simp] theorem dummyRead_ppu_oamAddr (s : State) (a : Word) : (dummyRead a s).ppu.oamAddr = s.ppu.oamAddr := by simp [dummyRead]
@[simp] theorem dummyRead_ppu_ctrl (s : State) (a : Word) : (dummyRead a s).ppu.ctrl = s.ppu.ctrl := by simp [dummyRead]
@[simp] theorem dummyRead_ppu_mask (s : State) (a : Word) : (dummyRead a s).ppu.mask = s.ppu.mask := by simp [dummyRead]
@[simp] theorem dummyRead_ppu_scrollX (s : State) (a : Word) : (dummyRead a s).ppu.scrollX = s.ppu.scrollX := by simp [dummyRead]
@[simp] theorem dummyRead_ppu_scrollY (s : State) (a : Word) : (dummyRead a s).ppu.scrollY = s.ppu.scrollY := by simp [dummyRead]

/-! ## Decoded writes -/

@[simp] theorem ppuRegWrite_cpu (s : State) (r : PpuReg) (v : Byte) : (ppuRegWrite r v s).cpu = s.cpu := by
  cases r <;> simp only [ppuRegWrite, nmiLineEval, oamDataWrite, ppuScrollWrite, ppuAddrWrite, ppuDataWrite, ppuWrite,
    chrWrite] <;> repeat' split
  all_goals rfl
@[simp] theorem ppuRegWrite_cycles (s : State) (r : PpuReg) (v : Byte) : (ppuRegWrite r v s).cycles = s.cycles := by
  cases r <;> simp only [ppuRegWrite, nmiLineEval, oamDataWrite, ppuScrollWrite, ppuAddrWrite, ppuDataWrite, ppuWrite,
    chrWrite] <;> repeat' split
  all_goals rfl
@[simp] theorem ppuRegWrite_fault (s : State) (r : PpuReg) (v : Byte) : (ppuRegWrite r v s).fault = s.fault := by
  cases r <;> simp only [ppuRegWrite, nmiLineEval, oamDataWrite, ppuScrollWrite, ppuAddrWrite, ppuDataWrite, ppuWrite,
    chrWrite] <;> repeat' split
  all_goals rfl
@[simp] theorem ppuRegWrite_cfg (s : State) (r : PpuReg) (v : Byte) : (ppuRegWrite r v s).cfg = s.cfg := by
  cases r <;> simp only [ppuRegWrite, nmiLineEval, oamDataWrite, ppuScrollWrite, ppuAddrWrite, ppuDataWrite, ppuWrite,
    chrWrite] <;> repeat' split
  all_goals rfl
@[simp] theorem ppuRegWrite_video (s : State) (r : PpuReg) (v : Byte) : (ppuRegWrite r v s).video = s.video := by
  cases r <;> simp only [ppuRegWrite, nmiLineEval, oamDataWrite, ppuScrollWrite, ppuAddrWrite, ppuDataWrite, ppuWrite,
    chrWrite] <;> repeat' split
  all_goals rfl
@[simp] theorem ppuRegWrite_audio (s : State) (r : PpuReg) (v : Byte) : (ppuRegWrite r v s).audio = s.audio := by
  cases r <;> simp only [ppuRegWrite, nmiLineEval, oamDataWrite, ppuScrollWrite, ppuAddrWrite, ppuDataWrite, ppuWrite,
    chrWrite] <;> repeat' split
  all_goals rfl
@[simp] theorem ppuRegWrite_ram (s : State) (r : PpuReg) (v : Byte) : (ppuRegWrite r v s).ram = s.ram := by
  cases r <;> simp only [ppuRegWrite, nmiLineEval, oamDataWrite, ppuScrollWrite, ppuAddrWrite, ppuDataWrite, ppuWrite,
    chrWrite] <;> repeat' split
  all_goals rfl
@[simp] theorem ppuRegWrite_mapper (s : State) (r : PpuReg) (v : Byte) : (ppuRegWrite r v s).mapper = s.mapper := by
  cases r <;> simp only [ppuRegWrite, nmiLineEval, oamDataWrite, ppuScrollWrite, ppuAddrWrite, ppuDataWrite, ppuWrite,
    chrWrite] <;> repeat' split
  all_goals rfl
@[simp] theorem ppuRegWrite_ctl (s : State) (r : PpuReg) (v : Byte) : (ppuRegWrite r v s).ctl = s.ctl := by
  cases r <;> simp only [ppuRegWrite, nmiLineEval, oamDataWrite, ppuScrollWrite, ppuAddrWrite, ppuDataWrite, ppuWrite,
    chrWrite] <;> repeat' split
  all_goals rfl
@[simp] theorem ppuRegWrite_apu (s : State) (r : PpuReg) (v : Byte) : (ppuRegWrite r v s).apu = s.apu := by
  cases r <;> simp only [ppuRegWrite, nmiLineEval, oamDataWrite, ppuScrollWrite, ppuAddrWrite, ppuDataWrite, ppuWrite,
    chrWrite] <;> repeat' split
  all_goals rfl
@[simp] theorem ppuRegWrite_input (s : State) (r : PpuReg) (v : Byte) : (ppuRegWrite r v s).input = s.input := by
  cases r <;> simp only [ppuRegWrite, nmiLineEval, oamDataWrite, ppuScrollWrite, ppuAddrWrite, ppuDataWrite, ppuWrite,
    chrWrite] <;> repeat' split
  all_goals rfl
@[simp] theorem ppuRegWrite_draws (s : State) (r : PpuReg) (v : Byte) : (ppuRegWrite r v s).draws = s.draws := by
  cases r <;> simp only [ppuRegWrite, nmiLineEval, oamDataWrite, ppuScrollWrite, ppuAddrWrite, ppuDataWrite, ppuWrite,
    chrWrite] <;> repeat' split
  all_goals rfl
@[simp] theorem controllerWrite_cpu (s : State) (v : Byte) : (controllerWrite v s).cpu = s.cpu := by
  simp only [controllerWrite, sampleButtons]; repeat' split
  all_goals rfl
@[simp] theorem controllerWrite_ram (s : State) (v : Byte) : (controllerWrite v s).ram = s.ram := by
  simp only [controllerWrite, sampleButtons]; repeat' split
  all_goals rfl
@[simp] theorem controllerWrite_chrRam (s : State) (v : Byte) : (controllerWrite v s).chrRam = s.chrRam := by
  simp only [controllerWrite, sampleButtons]; repeat' split
  all_goals rfl
@[simp] theorem controllerWrite_ppu (s : State) (v : Byte) : (controllerWrite v s).ppu = s.ppu := by
  simp only [controllerWrite, sampleButtons]; repeat' split
  all_goals rfl
@[simp] theorem controllerWrite_apu (s : State) (v : Byte) : (controllerWrite v s).apu = s.apu := by
  simp only [controllerWrite, sampleButtons]; repeat' split
  all_goals rfl
@[simp] theorem controllerWrite_mapper (s : State) (v : Byte) : (controllerWrite v s).mapper = s.mapper := by
  simp only [controllerWrite, sampleButtons]; repeat' split
  all_goals rfl
@[simp] theorem controllerWrite_nmiLinePrev (s : State) (v : Byte) : (controllerWrite v s).nmiLinePrev = s.nmiLinePrev := by
  simp only [controllerWrite, sampleButtons]; repeat' split
  all_goals rfl
@[simp] theorem controllerWrite_nmiQueued (s : State) (v : Byte) : (controllerWrite v s).nmiQueued = s.nmiQueued := by
  simp only [controllerWrite, sampleButtons]; repeat' split
  all_goals rfl
@[simp] theorem controllerWrite_cycles (s : State) (v : Byte) : (controllerWrite v s).cycles = s.cycles := by
  simp only [controllerWrite, sampleButtons]; repeat' split
  all_goals rfl
@[simp] theorem controllerWrite_fault (s : State) (v : Byte) : (controllerWrite v s).fault = s.fault := by
  simp only [controllerWrite, sampleButtons]; repeat' split
  all_goals rfl
@[simp] theorem controllerWrite_cfg (s : State) (v : Byte) : (controllerWrite v s).cfg = s.cfg := by
  simp only [controllerWrite, sampleButtons]; repeat' split
  all_goals rfl
@[simp] theorem controllerWrite_video (s : State) (v : Byte) : (controllerWrite v s).video = s.video := by
  simp only [controllerWrite, sampleButtons]; repeat' split
  all_goals rfl
@[simp] theorem controllerWrite_audio (s : State) (v : Byte) : (controllerWrite v s).audio = s.audio := by
  simp only [controllerWrite, sampleButtons]; repeat' split
  all_goals rfl
@[simp] theorem mapperWrite_cpu (s : State) (a : Word) (v : Byte) : (mapperWrite a v s).cpu = s.cpu := by
  simp only [mapperWrite]; split <;> rfl
@[simp] theorem mapperWrite_ram (s : State) (a : Word) (v : Byte) : (mapperWrite a v s).ram = s.ram := by
  simp only [mapperWrite]; split <;> rfl
@[simp] theorem mapperWrite_chrRam (s : State) (a : Word) (v : Byte) : (mapperWrite a v s).chrRam = s.chrRam := by
  simp only [mapperWrite]; split <;> rfl
@[simp] theorem mapperWrite_ppu (s : State) (a : Word) (v : Byte) : (mapperWrite a v s).ppu = s.ppu := by
  simp only [mapperWrite]; split <;> rfl
@[simp] theorem mapperWrite_apu (s : State) (a : Word) (v : Byte) : (mapperWrite a v s).apu = s.apu := by
  simp only [mapperWrite]; split <;> rfl
@[simp] theorem mapperWrite_ctl (s : State) (a : Word) (v : Byte) : (mapperWrite a v s).ctl = s.ctl := by
  simp only [mapperWrite]; split <;> rfl
@[simp] theorem mapperWrite_nmiLinePrev (s : State) (a : Word) (v : Byte) : (mapperWrite a v s).nmiLinePrev = s.nmiLinePrev := by
  simp only [mapperWrite]; split <;> rfl
@[simp] theorem mapperWrite_nmiQueued (s : State) (a : Word) (v : Byte) : (mapperWrite a v s).nmiQueued = s.nmiQueued := by
  simp only [mapperWrite]; split <;> rfl
@[simp] theorem mapperWrite_cycles (s : State) (a : Word) (v : Byte) : (mapperWrite a v s).cycles = s.cycles := by
  simp only [mapperWrite]; split <;> rfl
@[simp] theorem mapperWrite_fault (s : State) (a : Word) (v : Byte) : (mapperWrite a v s).fault = s.fault := by
  simp only [mapperWrite]; split <;> rfl
@[simp] theorem mapperWrite_cfg (s : State) (a : Word) (v : Byte) : (mapperWrite a v s).cfg = s.cfg := by
  simp only [mapperWrite]; split <;> rfl
@[simp] theorem mapperWrite_input (s : State) (a : Word) (v : Byte) : (mapperWrite a v s).input = s.input := by
  simp only [mapperWrite]; split <;> rfl
@[simp] theorem mapperWrite_draws (s : State) (a : Word) (v : Byte) : (mapperWrite a v s).draws = s.draws := by
  simp only [mapperWrite]; split <;> rfl
@[simp] theorem mapperWrite_video (s : State) (a : Word) (v : Byte) : (mapperWrite a v s).video = s.video := by
  simp only [mapperWrite]; split <;> rfl
@[simp] theorem mapperWrite_audio (s : State) (a : Word) (v : Byte) : (mapperWrite a v s).audio = s.audio := by
  simp only [mapperWrite]; split <;> rfl
@[simp] theorem ramSet_cpu (s : State) (a : Word) (v : Byte) : (ramSet a v s).cpu = s.cpu := rfl
@[simp] theorem ramSet_chrRam (s : State) (a : Word) (v : Byte) : (ramSet a v s).chrRam = s.chrRam := rfl
@[simp] theorem ramSet_ppu (s : State) (a : Word) (v : Byte) : (ramSet a v s).ppu = s.ppu := rfl
@[simp] theorem ramSet_apu (s : State) (a : Word) (v : Byte) : (ramSet a v s).apu = s.apu := rfl
@[simp] theorem ramSet_ctl (s : State) (a : Word) (v : Byte) : (ramSet a v s).ctl = s.ctl := rfl
@[simp] theorem ramSet_mapper (s : State) (a : Word) (v : Byte) : (ramSet a v s).mapper = s.mapper := rfl
@[simp] theorem ramSet_nmiLinePrev (s : State) (a : Word) (v : Byte) : (ramSet a v s).nmiLinePrev = s.nmiLinePrev := rfl
@[simp] theorem ramSet_nmiQueued (s : State) (a : Word) (v : Byte) : (ramSet a v s).nmiQueued = s.nmiQueued := rfl
@[simp] theorem ramSet_cycles (s : State) (a : Word) (v : Byte) : (ramSet a v s).cycles = s.cycles := rfl
@[simp] theorem ramSet_fault (s : State) (a : Word) (v : Byte) : (ramSet a v s).fault = s.fault := rfl
@[simp] theorem ramSet_cfg (s : State) (a : Word) (v : Byte) : (ramSet a v s).cfg = s.cfg := rfl
@[simp] theorem ramSet_input (s : State) (a : Word) (v : Byte) : (ramSet a v s).input = s.input := rfl
@[simp] theorem ramSet_draws (s : State) (a : Word) (v : Byte) : (ramSet a v s).draws = s.draws := rfl
@[simp] theorem ramSet_video (s : State) (a : Word) (v : Byte) : (ramSet a v s).video = s.video := rfl
@[simp] theorem ramSet_audio (s : State) (a : Word) (v : Byte) : (ramSet a v s).audio = s.audio := rfl
@[simp] theorem busStore_cpu (s : State) (a : Word) (v : Byte) : (busStore a v s).cpu = s.cpu := by
  simp only [busStore]; repeat' split
  all_goals simp
@[simp] theorem busStore_cycles (s : State) (a : Word) (v : Byte) : (busStore a v s).cycles = s.cycles := by
  simp only [busStore]; repeat' split
  all_goals simp
@[simp] theorem busStore_fault (s : State) (a : Word) (v : Byte) : (busStore a v s).fault = s.fault := by
  simp only [busStore]; repeat' split
  all_goals simp
@[simp] theorem busStore_cfg (s : State) (a : Word) (v : Byte) : (busStore a v s).cfg = s.cfg := by
  simp only [busStore]; repeat' split
  all_goals simp
@[simp] theorem busStore_video (s : State) (a : Word) (v : Byte) : (busStore a v s).video = s.video := by
  simp only [busStore]; repeat' split
  all_goals simp
@[simp] theorem busStore_audio (s : State) (a : Word) (v : Byte) : (busStore a v s).audio = s.audio := by
  simp only [busStore]; repeat' split
  all_goals simp

@[simp] theorem busStore_ram (a : Word) (v : Byte) (s : State) :
    (busStore a v s).ram = if a.toNat < 0x2000 then memSet s.ram (a.toNat % 0x800) v else s.ram := by
  simp only [busStore]; repeat' split
  all_goals simp_all [ramSet]

/-- A store reaches the mapper registers exactly from `$8000` up (R72, R78). -/
@[simp] theorem busStore_mapper (a : Word) (v : Byte) (s : State) :
    (busStore a v s).mapper = if 0x8000 ≤ a.toNat then s.mapper.write a v else s.mapper := by
  simp only [busStore, mapperWrite]
  repeat' split
  all_goals first | omega | simp

/-- The OAM DMA's write is an OAMDATA write (R450). -/
@[simp] theorem busStore_2004 (v : Byte) (s : State) : busStore 0x2004#16 v s = oamDataWrite v s := rfl

@[simp] theorem oamDataWrite_cpu (s : State) (v : Byte) : (oamDataWrite v s).cpu = s.cpu := rfl
@[simp] theorem oamDataWrite_ram (s : State) (v : Byte) : (oamDataWrite v s).ram = s.ram := rfl
@[simp] theorem oamDataWrite_chrRam (s : State) (v : Byte) : (oamDataWrite v s).chrRam = s.chrRam := rfl
@[simp] theorem oamDataWrite_apu (s : State) (v : Byte) : (oamDataWrite v s).apu = s.apu := rfl
@[simp] theorem oamDataWrite_ctl (s : State) (v : Byte) : (oamDataWrite v s).ctl = s.ctl := rfl
@[simp] theorem oamDataWrite_mapper (s : State) (v : Byte) : (oamDataWrite v s).mapper = s.mapper := rfl
@[simp] theorem oamDataWrite_nmiLinePrev (s : State) (v : Byte) : (oamDataWrite v s).nmiLinePrev = s.nmiLinePrev := rfl
@[simp] theorem oamDataWrite_nmiQueued (s : State) (v : Byte) : (oamDataWrite v s).nmiQueued = s.nmiQueued := rfl
@[simp] theorem oamDataWrite_cycles (s : State) (v : Byte) : (oamDataWrite v s).cycles = s.cycles := rfl
@[simp] theorem oamDataWrite_fault (s : State) (v : Byte) : (oamDataWrite v s).fault = s.fault := rfl
@[simp] theorem oamDataWrite_cfg (s : State) (v : Byte) : (oamDataWrite v s).cfg = s.cfg := rfl
@[simp] theorem oamDataWrite_input (s : State) (v : Byte) : (oamDataWrite v s).input = s.input := rfl
@[simp] theorem oamDataWrite_draws (s : State) (v : Byte) : (oamDataWrite v s).draws = s.draws := rfl
@[simp] theorem oamDataWrite_video (s : State) (v : Byte) : (oamDataWrite v s).video = s.video := rfl
@[simp] theorem oamDataWrite_audio (s : State) (v : Byte) : (oamDataWrite v s).audio = s.audio := rfl

/-! ## OAM DMA and MemWrite (R63, R450) -/

@[simp] theorem oamDmaFrom_cpu (page : Byte) (n i : Nat) (s : State) : (oamDmaFrom page n i s).cpu = s.cpu := by
  induction n generalizing i s with
  | zero => rfl
  | succ n ih => simp [oamDmaFrom, ih]
@[simp] theorem oamDmaFrom_fault (page : Byte) (n i : Nat) (s : State) : (oamDmaFrom page n i s).fault = s.fault := by
  induction n generalizing i s with
  | zero => rfl
  | succ n ih => simp [oamDmaFrom, ih]
@[simp] theorem oamDmaFrom_cfg (page : Byte) (n i : Nat) (s : State) : (oamDmaFrom page n i s).cfg = s.cfg := by
  induction n generalizing i s with
  | zero => rfl
  | succ n ih => simp [oamDmaFrom, ih]
@[simp] theorem oamDmaFrom_ram (page : Byte) (n i : Nat) (s : State) : (oamDmaFrom page n i s).ram = s.ram := by
  induction n generalizing i s with
  | zero => rfl
  | succ n ih => simp [oamDmaFrom, ih]
@[simp] theorem oamDmaFrom_mapper (page : Byte) (n i : Nat) (s : State) : (oamDmaFrom page n i s).mapper = s.mapper := by
  induction n generalizing i s with
  | zero => rfl
  | succ n ih => simp [oamDmaFrom, ih]
@[simp] theorem oamDmaFrom_chrRam (page : Byte) (n i : Nat) (s : State) : (oamDmaFrom page n i s).chrRam = s.chrRam := by
  induction n generalizing i s with
  | zero => rfl
  | succ n ih => simp [oamDmaFrom, ih]
@[simp] theorem oamDmaFrom_input (page : Byte) (n i : Nat) (s : State) : (oamDmaFrom page n i s).input = s.input := by
  induction n generalizing i s with
  | zero => rfl
  | succ n ih => simp [oamDmaFrom, ih]

theorem oamDmaFrom_cycles (page : Byte) (n i : Nat) (s : State) :
    (oamDmaFrom page n i s).cycles = s.cycles + 2 * n := by
  induction n generalizing i s with
  | zero => rfl
  | succ n ih => simp [oamDmaFrom, ih]; omega

@[simp] theorem memWrite_cpu (a : Word) (v : Byte) (s : State) : (memWrite a v s).cpu = s.cpu := by
  simp only [memWrite, busDecodeWrite, oamDma]; split <;> simp
@[simp] theorem memWrite_fault (a : Word) (v : Byte) (s : State) : (memWrite a v s).fault = s.fault := by
  simp only [memWrite, busDecodeWrite, oamDma]; split <;> simp
@[simp] theorem memWrite_cfg (a : Word) (v : Byte) (s : State) : (memWrite a v s).cfg = s.cfg := by
  simp only [memWrite, busDecodeWrite, oamDma]; split <;> simp

theorem memWrite_cycles (a : Word) (v : Byte) (s : State) :
    (memWrite a v s).cycles = s.cycles + if a = 0x4014 then 513 else 1 := by
  simp only [memWrite, busDecodeWrite, oamDma]; split <;> simp [oamDmaFrom_cycles]

/-- Internal RAM after a bus write (R66): only a write below `$2000` touches it. -/
theorem memWrite_ram (a : Word) (v : Byte) (s : State) :
    (memWrite a v s).ram = if a.toNat < 0x2000 then memSet s.ram (a.toNat % 0x800) v else s.ram := by
  simp only [memWrite, busDecodeWrite, oamDma]; split
  · next h => subst h; simp
  · simp

theorem memWrite_mapper (a : Word) (v : Byte) (s : State) :
    (memWrite a v s).mapper = if 0x8000 ≤ a.toNat then s.mapper.write a v else s.mapper := by
  simp only [memWrite, busDecodeWrite, oamDma]; split
  · next h => subst h; simp
  · simp

end Sys2Proof.Machine
end

