-- ==== Sys2Proof/Laws/Ops.lean ====
section
/-! SUPPORT. For each named operation over the bus, what it does and what it leaves alone. -/

namespace Sys2Proof.Machine

/-! ## Bytes and words -/

theorem toNat_mkWord (hi lo : Byte) : (mkWord hi lo).toNat = 256 * hi.toNat + lo.toNat := by
  have h : (mkWord hi lo).toNat = hi.toNat <<< 8 ||| lo.toNat := BitVec.toNat_append hi lo
  rw [h, ← Nat.shiftLeft_add_eq_or_of_lt lo.isLt, Nat.shiftLeft_eq]
  omega

@[simp] theorem toNat_loByte (w : Word) : (loByte w).toNat = w.toNat % 256 := by simp [loByte]

@[simp] theorem toNat_hiByte (w : Word) : (hiByte w).toNat = w.toNat / 256 := by
  have := w.isLt
  simp [hiByte, BitVec.extractLsb'_toNat, Nat.shiftRight_eq_div_pow]
  omega

@[simp] theorem mkWord_hi_lo (w : Word) : mkWord (hiByte w) (loByte w) = w := by
  apply BitVec.eq_of_toNat_eq
  rw [toNat_mkWord, toNat_hiByte, toNat_loByte]
  omega

@[simp] theorem loByte_mkWord (hi lo : Byte) : loByte (mkWord hi lo) = lo := by
  apply BitVec.eq_of_toNat_eq
  rw [toNat_loByte, toNat_mkWord]
  omega

@[simp] theorem hiByte_mkWord (hi lo : Byte) : hiByte (mkWord hi lo) = hi := by
  apply BitVec.eq_of_toNat_eq
  rw [toNat_hiByte, toNat_mkWord]
  omega

@[simp] theorem toNat_zeroPage (d : Byte) : (zeroPage d).toNat = d.toNat := by
  have := d.isLt
  simp [zeroPage]
  try omega

@[simp] theorem toNat_stackAddr (sp : Byte) : (stackAddr sp).toNat = 256 + sp.toNat := by
  rw [stackAddr, toNat_mkWord]
  rfl

theorem stackAddr_inRam (sp : Byte) : InRam (stackAddr sp) := by
  have := sp.isLt
  simp only [InRam, toNat_stackAddr]
  omega

theorem zeroPage_inRam (d : Byte) : InRam (zeroPage d) := by
  have := d.isLt
  simp only [InRam, toNat_zeroPage]
  omega

/-- Two stack slots are one RAM byte only when they are one slot. -/
theorem stack_same {p q : Byte} (h : SameRamByte (stackAddr p) (stackAddr q)) : p = q := by
  have hp := p.isLt
  have hq := q.isLt
  simp only [SameRamByte, toNat_stackAddr] at h
  apply BitVec.eq_of_toNat_eq
  omega

/-! ## Reads of plain memory -/

/-- A read of RAM is its byte and a tick (R62, R66). -/
theorem memRead_inRam {a : Word} (h : InRam a) (s : State) : memRead a s = (ramGet s a, tick s) := by
  simp only [InRam] at h
  simp [memRead, busDecodeRead, h, ramGet]

/-- A read of PRG space is the visible ROM byte and a tick (R62, R72). -/
theorem memRead_inRom {a : Word} (h : InRom a) (s : State) : memRead a s = (prgRead s a, tick s) := by
  simp only [InRom] at h
  have h1 : ¬a.toNat < 0x2000 := by omega
  have h2 : ¬a.toNat < 0x4000 := by omega
  have h3 : ¬a.toNat = 0x4014 := by omega
  have h4 : ¬a.toNat = 0x4016 := by omega
  have h5 : ¬a.toNat < 0x4018 := by omega
  have h6 : ¬a.toNat < 0x4020 := by omega
  have h7 : ¬a.toNat < 0x8000 := by omega
  simp only [memRead, busDecodeRead, mapperRead, h1, h2, h3, h4, h5, h6, h7, if_false, prgRead, tick_cfg, tick_mapper]

theorem peek_inRam {a : Word} (h : InRam a) (s : State) : peek s a = ramGet s a := by
  simp only [InRam] at h
  simp [peek, busDecodeRead, h]

theorem peek_inRom {a : Word} (h : InRom a) (s : State) : peek s a = prgRead s a := by
  simp only [InRom] at h
  have h1 : ¬a.toNat < 0x2000 := by omega
  have h2 : ¬a.toNat < 0x4000 := by omega
  have h3 : ¬a.toNat = 0x4014 := by omega
  have h4 : ¬a.toNat = 0x4016 := by omega
  have h5 : ¬a.toNat < 0x4018 := by omega
  have h6 : ¬a.toNat < 0x4020 := by omega
  have h7 : ¬a.toNat < 0x8000 := by omega
  simp only [peek, busDecodeRead, mapperRead, h1, h2, h3, h4, h5, h6, h7, if_false]

/-- A read of plain memory gives the peeked byte and does nothing but tick (R77). -/
theorem memRead_plain {a : Word} (h : Plain a) (s : State) : memRead a s = (peek s a, tick s) := by
  rcases h with h | h
  · rw [memRead_inRam h, peek_inRam h]
  · rw [memRead_inRom h, peek_inRom h]

theorem memRead_plain_value {a : Word} (h : Plain a) (s : State) : (memRead a s).1 = peek s a := by
  rw [memRead_plain h]

/-- What plain memory reads depends on RAM, the mapper registers and the configuration alone. -/
theorem peek_plain_congr {a : Word} (h : Plain a) {s t : State} (h1 : t.ram = s.ram) (h2 : t.mapper = s.mapper)
    (h3 : t.cfg = s.cfg) : peek t a = peek s a := by
  rcases h with h | h
  · rw [peek_inRam h, peek_inRam h, ramGet, ramGet, h1]
  · rw [peek_inRom h, peek_inRom h, prgRead, prgRead, h2, h3]

theorem ramGet_congr {s t : State} (h : t.ram = s.ram) (a : Word) : ramGet t a = ramGet s a := by simp [ramGet, h]

/-! ## Writes to RAM -/

/-- A write to RAM is a tick and a store (R63, R66). -/
theorem memWrite_inRam {a : Word} (h : InRam a) (v : Byte) (s : State) : memWrite a v s = ramSet a v (tick s) := by
  simp only [InRam] at h
  have h1 : a ≠ 0x4014 := by
    rintro rfl
    exact absurd h (by decide)
  rw [memWrite, busDecodeWrite, if_neg h1]
  simp only [busStore]
  rw [if_pos h]

theorem memWrite_not4014 {a : Word} (h : a ≠ 0x4014) (v : Byte) (s : State) : memWrite a v s = busStore a v (tick s) := by
  rw [memWrite, busDecodeWrite, if_neg h]

/-- The RAM byte at `b` after a store at `a` (R66). -/
theorem ramGet_ramSet {s : State} (h : Rising s.ram) (a b : Word) (v : Byte) :
    ramGet (ramSet a v s) b = if b.toNat % 0x800 = a.toNat % 0x800 then v else ramGet s b := by
  simp only [ramGet, ramSet]
  exact memGet_memSet h _ _ _

/-! ## fetch -/

@[simp] theorem fetch_cpu (s : State) : (fetch s).2.cpu = { s.cpu with pc := s.cpu.pc + 1 } := by simp [fetch]
@[simp] theorem fetch_ram (s : State) : (fetch s).2.ram = s.ram := by simp [fetch]
@[simp] theorem fetch_chrRam (s : State) : (fetch s).2.chrRam = s.chrRam := by simp [fetch]
@[simp] theorem fetch_mapper (s : State) : (fetch s).2.mapper = s.mapper := by simp [fetch]
@[simp] theorem fetch_fault (s : State) : (fetch s).2.fault = s.fault := by simp [fetch]
@[simp] theorem fetch_cfg (s : State) : (fetch s).2.cfg = s.cfg := by simp [fetch]
@[simp] theorem fetch_input (s : State) : (fetch s).2.input = s.input := by simp [fetch]
@[simp] theorem fetch_ppu_oam (s : State) : (fetch s).2.ppu.oam = s.ppu.oam := by simp [fetch]
@[simp] theorem fetch_ppu_nametable (s : State) : (fetch s).2.ppu.nametable = s.ppu.nametable := by simp [fetch]
@[simp] theorem fetch_ppu_palette (s : State) : (fetch s).2.ppu.palette = s.ppu.palette := by simp [fetch]
theorem fetch_cycles (s : State) : (fetch s).2.cycles = s.cycles + 1 := by simp [fetch]

/-! ## push -/

/-- A push writes the stack byte at `SP`, then decrements SP (R11, R22). -/
theorem push_eq (v : Byte) (s : State) :
    push v s = (ramSet (stackAddr s.cpu.sp) v (tick s)).setSp (s.cpu.sp - 1) := by
  rw [push, memWrite_inRam (stackAddr_inRam _)]

@[simp] theorem push_cpu (v : Byte) (s : State) : (push v s).cpu = { s.cpu with sp := s.cpu.sp - 1 } := by simp [push_eq]
@[simp] theorem push_ram (v : Byte) (s : State) :
    (push v s).ram = memSet s.ram (256 + s.cpu.sp.toNat) v := by
  have := s.cpu.sp.isLt
  have h : (256 + s.cpu.sp.toNat) % 0x800 = 256 + s.cpu.sp.toNat := Nat.mod_eq_of_lt (by omega)
  simp [push_eq, ramSet, h]
@[simp] theorem push_chrRam (v : Byte) (s : State) : (push v s).chrRam = s.chrRam := by simp [push_eq]
@[simp] theorem push_mapper (v : Byte) (s : State) : (push v s).mapper = s.mapper := by simp [push_eq]
@[simp] theorem push_fault (v : Byte) (s : State) : (push v s).fault = s.fault := by simp [push_eq]
@[simp] theorem push_cfg (v : Byte) (s : State) : (push v s).cfg = s.cfg := by simp [push_eq]
@[simp] theorem push_input (v : Byte) (s : State) : (push v s).input = s.input := by simp [push_eq]
@[simp] theorem push_ppu_oam (v : Byte) (s : State) : (push v s).ppu.oam = s.ppu.oam := by simp [push_eq]
@[simp] theorem push_ppu_nametable (v : Byte) (s : State) : (push v s).ppu.nametable = s.ppu.nametable := by simp [push_eq]
@[simp] theorem push_ppu_palette (v : Byte) (s : State) : (push v s).ppu.palette = s.ppu.palette := by simp [push_eq]
theorem push_cycles (v : Byte) (s : State) : (push v s).cycles = s.cycles + 1 := by simp [push_eq]

/-! ## pull -/

/-- A pull gives the stack byte above SP (R11, R22). -/
theorem pull_value (s : State) : (pull s).1 = memGet s.ram (256 + (s.cpu.sp + 1).toNat) := by
  have := (s.cpu.sp + 1).isLt
  have h : (256 + (s.cpu.sp + 1).toNat) % 0x800 = 256 + (s.cpu.sp + 1).toNat := Nat.mod_eq_of_lt (by omega)
  simp only [pull, memRead_inRam (stackAddr_inRam _), ramGet, setSp_ram, setSp_cpu, toNat_stackAddr, h]

/-! ## pull -/

@[simp] theorem pull_cpu (s : State) : (pull s).2.cpu = { s.cpu with sp := s.cpu.sp + 1 } := by simp [pull]
@[simp] theorem pull_ram (s : State) : (pull s).2.ram = s.ram := by simp [pull]
@[simp] theorem pull_chrRam (s : State) : (pull s).2.chrRam = s.chrRam := by simp [pull]
@[simp] theorem pull_mapper (s : State) : (pull s).2.mapper = s.mapper := by simp [pull]
@[simp] theorem pull_fault (s : State) : (pull s).2.fault = s.fault := by simp [pull]
@[simp] theorem pull_cfg (s : State) : (pull s).2.cfg = s.cfg := by simp [pull]
@[simp] theorem pull_input (s : State) : (pull s).2.input = s.input := by simp [pull]
@[simp] theorem pull_ppu_oam (s : State) : (pull s).2.ppu.oam = s.ppu.oam := by simp [pull]
@[simp] theorem pull_ppu_nametable (s : State) : (pull s).2.ppu.nametable = s.ppu.nametable := by simp [pull]
@[simp] theorem pull_ppu_palette (s : State) : (pull s).2.ppu.palette = s.ppu.palette := by simp [pull]
theorem pull_cycles (s : State) : (pull s).2.cycles = s.cycles + 1 := by simp [pull]

/-! ## pushWord, pullWord, readVector -/

@[simp] theorem pushWord_cpu (w : Word) (s : State) :
    (pushWord w s).cpu = { s.cpu with sp := s.cpu.sp - 1 - 1 } := by simp [pushWord]
@[simp] theorem pushWord_ram (w : Word) (s : State) :
    (pushWord w s).ram =
      memSet (memSet s.ram (256 + s.cpu.sp.toNat) (hiByte w)) (256 + (s.cpu.sp - 1).toNat) (loByte w) := by
  simp [pushWord]
@[simp] theorem pushWord_chrRam (w : Word) (s : State) : (pushWord w s).chrRam = s.chrRam := by simp [pushWord]
@[simp] theorem pushWord_mapper (w : Word) (s : State) : (pushWord w s).mapper = s.mapper := by simp [pushWord]
@[simp] theorem pushWord_fault (w : Word) (s : State) : (pushWord w s).fault = s.fault := by simp [pushWord]
@[simp] theorem pushWord_cfg (w : Word) (s : State) : (pushWord w s).cfg = s.cfg := by simp [pushWord]
@[simp] theorem pushWord_input (w : Word) (s : State) : (pushWord w s).input = s.input := by simp [pushWord]
@[simp] theorem pushWord_ppu_oam (w : Word) (s : State) : (pushWord w s).ppu.oam = s.ppu.oam := by simp [pushWord]
@[simp] theorem pushWord_ppu_nametable (w : Word) (s : State) : (pushWord w s).ppu.nametable = s.ppu.nametable := by simp [pushWord]
@[simp] theorem pushWord_ppu_palette (w : Word) (s : State) : (pushWord w s).ppu.palette = s.ppu.palette := by simp [pushWord]
theorem pushWord_cycles (w : Word) (s : State) : (pushWord w s).cycles = s.cycles + 2 := by simp [pushWord, push_cycles]

theorem pullWord_value (s : State) :
    (pullWord s).1 =
      mkWord (memGet s.ram (256 + (s.cpu.sp + 1 + 1).toNat)) (memGet s.ram (256 + (s.cpu.sp + 1).toNat)) := by
  simp [pullWord, pull_value]

/-! ## pullWord -/

@[simp] theorem pullWord_cpu (s : State) : (pullWord s).2.cpu = { s.cpu with sp := s.cpu.sp + 1 + 1 } := by simp [pullWord]
@[simp] theorem pullWord_ram (s : State) : (pullWord s).2.ram = s.ram := by simp [pullWord]
@[simp] theorem pullWord_chrRam (s : State) : (pullWord s).2.chrRam = s.chrRam := by simp [pullWord]
@[simp] theorem pullWord_mapper (s : State) : (pullWord s).2.mapper = s.mapper := by simp [pullWord]
@[simp] theorem pullWord_fault (s : State) : (pullWord s).2.fault = s.fault := by simp [pullWord]
@[simp] theorem pullWord_cfg (s : State) : (pullWord s).2.cfg = s.cfg := by simp [pullWord]
@[simp] theorem pullWord_input (s : State) : (pullWord s).2.input = s.input := by simp [pullWord]
@[simp] theorem pullWord_ppu_oam (s : State) : (pullWord s).2.ppu.oam = s.ppu.oam := by simp [pullWord]
@[simp] theorem pullWord_ppu_nametable (s : State) : (pullWord s).2.ppu.nametable = s.ppu.nametable := by simp [pullWord]
@[simp] theorem pullWord_ppu_palette (s : State) : (pullWord s).2.ppu.palette = s.ppu.palette := by simp [pullWord]
theorem pullWord_cycles (s : State) : (pullWord s).2.cycles = s.cycles + 2 := by simp [pullWord, pull_cycles]

/-! ## readVector -/

@[simp] theorem readVector_cpu (v : Word) (s : State) : (readVector v s).2.cpu = s.cpu := by simp [readVector]
@[simp] theorem readVector_ram (v : Word) (s : State) : (readVector v s).2.ram = s.ram := by simp [readVector]
@[simp] theorem readVector_chrRam (v : Word) (s : State) : (readVector v s).2.chrRam = s.chrRam := by simp [readVector]
@[simp] theorem readVector_mapper (v : Word) (s : State) : (readVector v s).2.mapper = s.mapper := by simp [readVector]
@[simp] theorem readVector_fault (v : Word) (s : State) : (readVector v s).2.fault = s.fault := by simp [readVector]
@[simp] theorem readVector_cfg (v : Word) (s : State) : (readVector v s).2.cfg = s.cfg := by simp [readVector]
@[simp] theorem readVector_input (v : Word) (s : State) : (readVector v s).2.input = s.input := by simp [readVector]
@[simp] theorem readVector_ppu_oam (v : Word) (s : State) : (readVector v s).2.ppu.oam = s.ppu.oam := by simp [readVector]
@[simp] theorem readVector_ppu_nametable (v : Word) (s : State) : (readVector v s).2.ppu.nametable = s.ppu.nametable := by simp [readVector]
@[simp] theorem readVector_ppu_palette (v : Word) (s : State) : (readVector v s).2.ppu.palette = s.ppu.palette := by simp [readVector]
theorem readVector_cycles (v : Word) (s : State) : (readVector v s).2.cycles = s.cycles + 2 := by simp [readVector]

/-- A vector in PRG space is the little-endian word there (R74). -/
theorem readVector_value {v : Word} (h : InRom v) (h1 : InRom (v + 1)) (s : State) :
    (readVector v s).1 = peekWord s v := by
  simp only [readVector, memRead_plain (.inr h), memRead_plain (.inr h1), peekWord,
    peek_plain_congr (.inr h1) (tick_ram s) (tick_mapper s) (tick_cfg s)]

/-! ## Interrupt entry and return -/

@[simp] theorem takeInterrupt_cpu (b : Bool) (v : Word) (s : State) :
    (takeInterrupt b v s).cpu =
      { s.cpu with
        sp := s.cpu.sp - 1 - 1 - 1
        pc := (readVector v (push (s.cpu.statusForPush b) (pushWord s.cpu.pc s))).1
        i := true } := by simp [takeInterrupt]

@[simp] theorem takeInterrupt_ram (b : Bool) (v : Word) (s : State) :
    (takeInterrupt b v s).ram =
      memSet (memSet (memSet s.ram (256 + s.cpu.sp.toNat) (hiByte s.cpu.pc)) (256 + (s.cpu.sp - 1).toNat)
        (loByte s.cpu.pc)) (256 + (s.cpu.sp - 1 - 1).toNat) (s.cpu.statusForPush b) := by
  simp [takeInterrupt]
@[simp] theorem takeInterrupt_chrRam (b : Bool) (v : Word) (s : State) : (takeInterrupt b v s).chrRam = s.chrRam := by simp [takeInterrupt]
@[simp] theorem takeInterrupt_mapper (b : Bool) (v : Word) (s : State) : (takeInterrupt b v s).mapper = s.mapper := by simp [takeInterrupt]
@[simp] theorem takeInterrupt_fault (b : Bool) (v : Word) (s : State) : (takeInterrupt b v s).fault = s.fault := by simp [takeInterrupt]
@[simp] theorem takeInterrupt_cfg (b : Bool) (v : Word) (s : State) : (takeInterrupt b v s).cfg = s.cfg := by simp [takeInterrupt]
@[simp] theorem takeInterrupt_input (b : Bool) (v : Word) (s : State) : (takeInterrupt b v s).input = s.input := by simp [takeInterrupt]
@[simp] theorem takeInterrupt_ppu_oam (b : Bool) (v : Word) (s : State) : (takeInterrupt b v s).ppu.oam = s.ppu.oam := by simp [takeInterrupt]
@[simp] theorem takeInterrupt_ppu_nametable (b : Bool) (v : Word) (s : State) : (takeInterrupt b v s).ppu.nametable = s.ppu.nametable := by simp [takeInterrupt]
@[simp] theorem takeInterrupt_ppu_palette (b : Bool) (v : Word) (s : State) : (takeInterrupt b v s).ppu.palette = s.ppu.palette := by simp [takeInterrupt]
theorem takeInterrupt_cycles (b : Bool) (v : Word) (s : State) : (takeInterrupt b v s).cycles = s.cycles + 5 := by
  simp [takeInterrupt, readVector_cycles, push_cycles, pushWord_cycles]

/-- The vector an interrupt is taken through is in PRG space, which the pushes do not touch (R79). -/
theorem takeInterrupt_pc {v : Word} (h : InRom v) (h1 : InRom (v + 1)) (b : Bool) (s : State) :
    (takeInterrupt b v s).cpu.pc = peekWord s v := by
  simp only [takeInterrupt_cpu, readVector_value h h1, peekWord]
  rw [peek_inRom h, peek_inRom h1, peek_inRom h, peek_inRom h1]
  simp [prgRead]

@[simp] theorem nmiService_fault (s : State) : (nmiService s).fault = s.fault := by simp [nmiService]
@[simp] theorem nmiCheck_fault (s : State) : (nmiCheck s).fault = s.fault := by
  unfold nmiCheck; split <;> simp
@[simp] theorem nmiService_cfg (s : State) : (nmiService s).cfg = s.cfg := by simp [nmiService]
@[simp] theorem nmiCheck_cfg (s : State) : (nmiCheck s).cfg = s.cfg := by
  unfold nmiCheck; split <;> simp
@[simp] theorem nmiCheck_mapper (s : State) : (nmiCheck s).mapper = s.mapper := by
  unfold nmiCheck; split <;> simp [nmiService]
theorem nmiService_cycles (s : State) : (nmiService s).cycles = s.cycles + 7 := by
  simp [nmiService, takeInterrupt_cycles]

@[simp] theorem returnFromInterrupt_fault (s : State) : (returnFromInterrupt s).fault = s.fault := by
  simp [returnFromInterrupt]
@[simp] theorem returnFromInterrupt_cfg (s : State) : (returnFromInterrupt s).cfg = s.cfg := by
  simp [returnFromInterrupt]
theorem returnFromInterrupt_cycles (s : State) : (returnFromInterrupt s).cycles = s.cycles + 5 := by
  simp [returnFromInterrupt, pull_cycles, pullWord_cycles]

/-! ## Address resolution -/

@[simp] theorem indexAccess_cpu (k : Access) (base : Word) (idx : Byte) (s : State) : (indexAccess k base idx s).2.cpu = s.cpu := by
  cases k <;> simp only [indexAccess] <;> first | (split <;> simp) | simp
@[simp] theorem indexAccess_ram (k : Access) (base : Word) (idx : Byte) (s : State) : (indexAccess k base idx s).2.ram = s.ram := by
  cases k <;> simp only [indexAccess] <;> first | (split <;> simp) | simp
@[simp] theorem indexAccess_chrRam (k : Access) (base : Word) (idx : Byte) (s : State) : (indexAccess k base idx s).2.chrRam = s.chrRam := by
  cases k <;> simp only [indexAccess] <;> first | (split <;> simp) | simp
@[simp] theorem indexAccess_mapper (k : Access) (base : Word) (idx : Byte) (s : State) : (indexAccess k base idx s).2.mapper = s.mapper := by
  cases k <;> simp only [indexAccess] <;> first | (split <;> simp) | simp
@[simp] theorem indexAccess_fault (k : Access) (base : Word) (idx : Byte) (s : State) : (indexAccess k base idx s).2.fault = s.fault := by
  cases k <;> simp only [indexAccess] <;> first | (split <;> simp) | simp
@[simp] theorem indexAccess_cfg (k : Access) (base : Word) (idx : Byte) (s : State) : (indexAccess k base idx s).2.cfg = s.cfg := by
  cases k <;> simp only [indexAccess] <;> first | (split <;> simp) | simp
@[simp] theorem indexAccess_input (k : Access) (base : Word) (idx : Byte) (s : State) : (indexAccess k base idx s).2.input = s.input := by
  cases k <;> simp only [indexAccess] <;> first | (split <;> simp) | simp
@[simp] theorem indexAccess_ppu_oam (k : Access) (base : Word) (idx : Byte) (s : State) : (indexAccess k base idx s).2.ppu.oam = s.ppu.oam := by
  cases k <;> simp only [indexAccess] <;> first | (split <;> simp) | simp
@[simp] theorem indexAccess_ppu_nametable (k : Access) (base : Word) (idx : Byte) (s : State) : (indexAccess k base idx s).2.ppu.nametable = s.ppu.nametable := by
  cases k <;> simp only [indexAccess] <;> first | (split <;> simp) | simp
@[simp] theorem indexAccess_ppu_palette (k : Access) (base : Word) (idx : Byte) (s : State) : (indexAccess k base idx s).2.ppu.palette = s.ppu.palette := by
  cases k <;> simp only [indexAccess] <;> first | (split <;> simp) | simp
@[simp] theorem readPointer_cpu (p : Byte) (s : State) : (readPointer p s).2.cpu = s.cpu := by
  simp [readPointer]
@[simp] theorem readPointer_ram (p : Byte) (s : State) : (readPointer p s).2.ram = s.ram := by
  simp [readPointer]
@[simp] theorem readPointer_chrRam (p : Byte) (s : State) : (readPointer p s).2.chrRam = s.chrRam := by
  simp [readPointer]
@[simp] theorem readPointer_mapper (p : Byte) (s : State) : (readPointer p s).2.mapper = s.mapper := by
  simp [readPointer]
@[simp] theorem readPointer_fault (p : Byte) (s : State) : (readPointer p s).2.fault = s.fault := by
  simp [readPointer]
@[simp] theorem readPointer_cfg (p : Byte) (s : State) : (readPointer p s).2.cfg = s.cfg := by
  simp [readPointer]
@[simp] theorem readPointer_input (p : Byte) (s : State) : (readPointer p s).2.input = s.input := by
  simp [readPointer]
@[simp] theorem readPointer_ppu_oam (p : Byte) (s : State) : (readPointer p s).2.ppu.oam = s.ppu.oam := by
  simp [readPointer]
@[simp] theorem readPointer_ppu_nametable (p : Byte) (s : State) : (readPointer p s).2.ppu.nametable = s.ppu.nametable := by
  simp [readPointer]
@[simp] theorem readPointer_ppu_palette (p : Byte) (s : State) : (readPointer p s).2.ppu.palette = s.ppu.palette := by
  simp [readPointer]
@[simp] theorem resolve_cpu (k : Access) (l : Loc) (s : State) : (resolve k l s).2.cpu = s.cpu := by
  cases l <;> simp [resolve]
@[simp] theorem resolve_ram (k : Access) (l : Loc) (s : State) : (resolve k l s).2.ram = s.ram := by
  cases l <;> simp [resolve]
@[simp] theorem resolve_chrRam (k : Access) (l : Loc) (s : State) : (resolve k l s).2.chrRam = s.chrRam := by
  cases l <;> simp [resolve]
@[simp] theorem resolve_mapper (k : Access) (l : Loc) (s : State) : (resolve k l s).2.mapper = s.mapper := by
  cases l <;> simp [resolve]
@[simp] theorem resolve_fault (k : Access) (l : Loc) (s : State) : (resolve k l s).2.fault = s.fault := by
  cases l <;> simp [resolve]
@[simp] theorem resolve_cfg (k : Access) (l : Loc) (s : State) : (resolve k l s).2.cfg = s.cfg := by
  cases l <;> simp [resolve]
@[simp] theorem resolve_input (k : Access) (l : Loc) (s : State) : (resolve k l s).2.input = s.input := by
  cases l <;> simp [resolve]
@[simp] theorem resolve_ppu_oam (k : Access) (l : Loc) (s : State) : (resolve k l s).2.ppu.oam = s.ppu.oam := by
  cases l <;> simp [resolve]
@[simp] theorem resolve_ppu_nametable (k : Access) (l : Loc) (s : State) : (resolve k l s).2.ppu.nametable = s.ppu.nametable := by
  cases l <;> simp [resolve]
@[simp] theorem resolve_ppu_palette (k : Access) (l : Loc) (s : State) : (resolve k l s).2.ppu.palette = s.ppu.palette := by
  cases l <;> simp [resolve]
@[simp] theorem readSrc_cpu (o : Src) (s : State) : (readSrc o s).2.cpu = s.cpu := by
  cases o <;> simp [readSrc]
@[simp] theorem readSrc_ram (o : Src) (s : State) : (readSrc o s).2.ram = s.ram := by
  cases o <;> simp [readSrc]
@[simp] theorem readSrc_chrRam (o : Src) (s : State) : (readSrc o s).2.chrRam = s.chrRam := by
  cases o <;> simp [readSrc]
@[simp] theorem readSrc_mapper (o : Src) (s : State) : (readSrc o s).2.mapper = s.mapper := by
  cases o <;> simp [readSrc]
@[simp] theorem readSrc_fault (o : Src) (s : State) : (readSrc o s).2.fault = s.fault := by
  cases o <;> simp [readSrc]
@[simp] theorem readSrc_cfg (o : Src) (s : State) : (readSrc o s).2.cfg = s.cfg := by
  cases o <;> simp [readSrc]
@[simp] theorem readSrc_input (o : Src) (s : State) : (readSrc o s).2.input = s.input := by
  cases o <;> simp [readSrc]
@[simp] theorem readSrc_ppu_oam (o : Src) (s : State) : (readSrc o s).2.ppu.oam = s.ppu.oam := by
  cases o <;> simp [readSrc]
@[simp] theorem readSrc_ppu_nametable (o : Src) (s : State) : (readSrc o s).2.ppu.nametable = s.ppu.nametable := by
  cases o <;> simp [readSrc]
@[simp] theorem readSrc_ppu_palette (o : Src) (s : State) : (readSrc o s).2.ppu.palette = s.ppu.palette := by
  cases o <;> simp [readSrc]

@[simp] theorem indexAccess_value (k : Access) (base : Word) (idx : Byte) (s : State) :
    (indexAccess k base idx s).1 = indexed base idx := by cases k <;> rfl

/-- A pointer in page 0 is read from RAM (R117, R118). -/
theorem readPointer_value (p : Byte) (s : State) :
    (readPointer p s).1 = mkWord (memGet s.ram (p + 1).toNat) (memGet s.ram p.toNat) := by
  have h1 := p.isLt
  have h2 := (p + 1).isLt
  simp only [readPointer, memRead_inRam (zeroPage_inRam _), ramGet, tick_ram, toNat_zeroPage]
  rw [Nat.mod_eq_of_lt (by omega), Nat.mod_eq_of_lt (by omega)]

theorem readPointer_cycles (p : Byte) (s : State) : (readPointer p s).2.cycles = s.cycles + 2 := by
  simp [readPointer]

theorem toNat_indexed (base : Word) (idx : Byte) :
    (indexed base idx).toNat = (base.toNat + idx.toNat) % 65536 := by
  have := idx.isLt
  simp [indexed, BitVec.toNat_add]

/-- The uncorrected address is the effective one exactly when no page is crossed (R116, R118). -/
theorem uncorrected_eq_indexed (base : Word) (idx : Byte) :
    uncorrected base idx = indexed base idx ↔ base.toNat % 256 + idx.toNat < 256 := by
  have hb := base.isLt
  have hi := idx.isLt
  rw [← BitVec.toNat_inj, toNat_indexed, uncorrected, toNat_mkWord, BitVec.toNat_add, toNat_hiByte, toNat_loByte]
  constructor <;> intro h <;> omega

/-! ## The templates -/

@[simp] theorem implied_cpu (f : Cpu → Cpu) (s : State) : (implied f s).cpu = f s.cpu := by
  simp [implied]
@[simp] theorem implied_ram (f : Cpu → Cpu) (s : State) : (implied f s).ram = s.ram := by
  simp [implied]
@[simp] theorem implied_chrRam (f : Cpu → Cpu) (s : State) : (implied f s).chrRam = s.chrRam := by
  simp [implied]
@[simp] theorem implied_mapper (f : Cpu → Cpu) (s : State) : (implied f s).mapper = s.mapper := by
  simp [implied]
@[simp] theorem implied_fault (f : Cpu → Cpu) (s : State) : (implied f s).fault = s.fault := by
  simp [implied]
@[simp] theorem implied_cfg (f : Cpu → Cpu) (s : State) : (implied f s).cfg = s.cfg := by
  simp [implied]
@[simp] theorem implied_input (f : Cpu → Cpu) (s : State) : (implied f s).input = s.input := by
  simp [implied]
@[simp] theorem implied_ppu_oam (f : Cpu → Cpu) (s : State) : (implied f s).ppu.oam = s.ppu.oam := by
  simp [implied]
@[simp] theorem implied_ppu_nametable (f : Cpu → Cpu) (s : State) : (implied f s).ppu.nametable = s.ppu.nametable := by
  simp [implied]
@[simp] theorem implied_ppu_palette (f : Cpu → Cpu) (s : State) : (implied f s).ppu.palette = s.ppu.palette := by
  simp [implied]

@[simp] theorem withOperand_cpu (f : Cpu → Byte → Cpu) (o : Src) (s : State) : (withOperand f o s).cpu = f s.cpu (readSrc o s).1 := by
  simp [withOperand]
@[simp] theorem withOperand_ram (f : Cpu → Byte → Cpu) (o : Src) (s : State) : (withOperand f o s).ram = s.ram := by
  simp [withOperand]
@[simp] theorem withOperand_chrRam (f : Cpu → Byte → Cpu) (o : Src) (s : State) : (withOperand f o s).chrRam = s.chrRam := by
  simp [withOperand]
@[simp] theorem withOperand_mapper (f : Cpu → Byte → Cpu) (o : Src) (s : State) : (withOperand f o s).mapper = s.mapper := by
  simp [withOperand]
@[simp] theorem withOperand_fault (f : Cpu → Byte → Cpu) (o : Src) (s : State) : (withOperand f o s).fault = s.fault := by
  simp [withOperand]
@[simp] theorem withOperand_cfg (f : Cpu → Byte → Cpu) (o : Src) (s : State) : (withOperand f o s).cfg = s.cfg := by
  simp [withOperand]
@[simp] theorem withOperand_input (f : Cpu → Byte → Cpu) (o : Src) (s : State) : (withOperand f o s).input = s.input := by
  simp [withOperand]
@[simp] theorem withOperand_ppu_oam (f : Cpu → Byte → Cpu) (o : Src) (s : State) : (withOperand f o s).ppu.oam = s.ppu.oam := by
  simp [withOperand]
@[simp] theorem withOperand_ppu_nametable (f : Cpu → Byte → Cpu) (o : Src) (s : State) : (withOperand f o s).ppu.nametable = s.ppu.nametable := by
  simp [withOperand]
@[simp] theorem withOperand_ppu_palette (f : Cpu → Byte → Cpu) (o : Src) (s : State) : (withOperand f o s).ppu.palette = s.ppu.palette := by
  simp [withOperand]

@[simp] theorem modifyAcc_cpu (f : Cpu → Byte → Modified) (s : State) : (modifyAcc f s).cpu = { s.cpu with a := (f s.cpu s.cpu.a).new }.setModified (f s.cpu s.cpu.a) := by
  simp [modifyAcc]
@[simp] theorem modifyAcc_ram (f : Cpu → Byte → Modified) (s : State) : (modifyAcc f s).ram = s.ram := by
  simp [modifyAcc]
@[simp] theorem modifyAcc_chrRam (f : Cpu → Byte → Modified) (s : State) : (modifyAcc f s).chrRam = s.chrRam := by
  simp [modifyAcc]
@[simp] theorem modifyAcc_mapper (f : Cpu → Byte → Modified) (s : State) : (modifyAcc f s).mapper = s.mapper := by
  simp [modifyAcc]
@[simp] theorem modifyAcc_fault (f : Cpu → Byte → Modified) (s : State) : (modifyAcc f s).fault = s.fault := by
  simp [modifyAcc]
@[simp] theorem modifyAcc_cfg (f : Cpu → Byte → Modified) (s : State) : (modifyAcc f s).cfg = s.cfg := by
  simp [modifyAcc]
@[simp] theorem modifyAcc_input (f : Cpu → Byte → Modified) (s : State) : (modifyAcc f s).input = s.input := by
  simp [modifyAcc]
@[simp] theorem modifyAcc_ppu_oam (f : Cpu → Byte → Modified) (s : State) : (modifyAcc f s).ppu.oam = s.ppu.oam := by
  simp [modifyAcc]
@[simp] theorem modifyAcc_ppu_nametable (f : Cpu → Byte → Modified) (s : State) : (modifyAcc f s).ppu.nametable = s.ppu.nametable := by
  simp [modifyAcc]
@[simp] theorem modifyAcc_ppu_palette (f : Cpu → Byte → Modified) (s : State) : (modifyAcc f s).ppu.palette = s.ppu.palette := by
  simp [modifyAcc]

@[simp] theorem readAndDiscard_cpu (l : Loc) (s : State) : (readAndDiscard l s).cpu = s.cpu := by
  simp [readAndDiscard]
@[simp] theorem readAndDiscard_ram (l : Loc) (s : State) : (readAndDiscard l s).ram = s.ram := by
  simp [readAndDiscard]
@[simp] theorem readAndDiscard_chrRam (l : Loc) (s : State) : (readAndDiscard l s).chrRam = s.chrRam := by
  simp [readAndDiscard]
@[simp] theorem readAndDiscard_mapper (l : Loc) (s : State) : (readAndDiscard l s).mapper = s.mapper := by
  simp [readAndDiscard]
@[simp] theorem readAndDiscard_fault (l : Loc) (s : State) : (readAndDiscard l s).fault = s.fault := by
  simp [readAndDiscard]
@[simp] theorem readAndDiscard_cfg (l : Loc) (s : State) : (readAndDiscard l s).cfg = s.cfg := by
  simp [readAndDiscard]
@[simp] theorem readAndDiscard_input (l : Loc) (s : State) : (readAndDiscard l s).input = s.input := by
  simp [readAndDiscard]
@[simp] theorem readAndDiscard_ppu_oam (l : Loc) (s : State) : (readAndDiscard l s).ppu.oam = s.ppu.oam := by
  simp [readAndDiscard]
@[simp] theorem readAndDiscard_ppu_nametable (l : Loc) (s : State) : (readAndDiscard l s).ppu.nametable = s.ppu.nametable := by
  simp [readAndDiscard]
@[simp] theorem readAndDiscard_ppu_palette (l : Loc) (s : State) : (readAndDiscard l s).ppu.palette = s.ppu.palette := by
  simp [readAndDiscard]

@[simp] theorem pullAfterDummies_cpu (s : State) : (pullAfterDummies s).2.cpu = { s.cpu with sp := s.cpu.sp + 1 } := by
  simp [pullAfterDummies]
@[simp] theorem pullAfterDummies_ram (s : State) : (pullAfterDummies s).2.ram = s.ram := by
  simp [pullAfterDummies]
@[simp] theorem pullAfterDummies_chrRam (s : State) : (pullAfterDummies s).2.chrRam = s.chrRam := by
  simp [pullAfterDummies]
@[simp] theorem pullAfterDummies_mapper (s : State) : (pullAfterDummies s).2.mapper = s.mapper := by
  simp [pullAfterDummies]
@[simp] theorem pullAfterDummies_fault (s : State) : (pullAfterDummies s).2.fault = s.fault := by
  simp [pullAfterDummies]
@[simp] theorem pullAfterDummies_cfg (s : State) : (pullAfterDummies s).2.cfg = s.cfg := by
  simp [pullAfterDummies]
@[simp] theorem pullAfterDummies_input (s : State) : (pullAfterDummies s).2.input = s.input := by
  simp [pullAfterDummies]
@[simp] theorem pullAfterDummies_ppu_oam (s : State) : (pullAfterDummies s).2.ppu.oam = s.ppu.oam := by
  simp [pullAfterDummies]
@[simp] theorem pullAfterDummies_ppu_nametable (s : State) : (pullAfterDummies s).2.ppu.nametable = s.ppu.nametable := by
  simp [pullAfterDummies]
@[simp] theorem pullAfterDummies_ppu_palette (s : State) : (pullAfterDummies s).2.ppu.palette = s.ppu.palette := by
  simp [pullAfterDummies]

@[simp] theorem branch_cpu (taken : Bool) (d : Byte) (s : State) : (branch taken d s).cpu = { s.cpu with pc := if taken then s.cpu.pc + sext8 d else s.cpu.pc } := by
  simp only [branch]; repeat' split
  all_goals simp_all
@[simp] theorem branch_ram (taken : Bool) (d : Byte) (s : State) : (branch taken d s).ram = s.ram := by
  simp only [branch]; repeat' split
  all_goals simp_all
@[simp] theorem branch_chrRam (taken : Bool) (d : Byte) (s : State) : (branch taken d s).chrRam = s.chrRam := by
  simp only [branch]; repeat' split
  all_goals simp_all
@[simp] theorem branch_mapper (taken : Bool) (d : Byte) (s : State) : (branch taken d s).mapper = s.mapper := by
  simp only [branch]; repeat' split
  all_goals simp_all
@[simp] theorem branch_fault (taken : Bool) (d : Byte) (s : State) : (branch taken d s).fault = s.fault := by
  simp only [branch]; repeat' split
  all_goals simp_all
@[simp] theorem branch_cfg (taken : Bool) (d : Byte) (s : State) : (branch taken d s).cfg = s.cfg := by
  simp only [branch]; repeat' split
  all_goals simp_all
@[simp] theorem branch_input (taken : Bool) (d : Byte) (s : State) : (branch taken d s).input = s.input := by
  simp only [branch]; repeat' split
  all_goals simp_all
@[simp] theorem branch_ppu_oam (taken : Bool) (d : Byte) (s : State) : (branch taken d s).ppu.oam = s.ppu.oam := by
  simp only [branch]; repeat' split
  all_goals simp_all
@[simp] theorem branch_ppu_nametable (taken : Bool) (d : Byte) (s : State) : (branch taken d s).ppu.nametable = s.ppu.nametable := by
  simp only [branch]; repeat' split
  all_goals simp_all
@[simp] theorem branch_ppu_palette (taken : Bool) (d : Byte) (s : State) : (branch taken d s).ppu.palette = s.ppu.palette := by
  simp only [branch]; repeat' split
  all_goals simp_all

@[simp] theorem storeLoc_cpu (l : Loc) (v : Byte) (s : State) : (storeLoc l v s).cpu = s.cpu := by simp [storeLoc]
@[simp] theorem storeLoc_fault (l : Loc) (v : Byte) (s : State) : (storeLoc l v s).fault = s.fault := by simp [storeLoc]
@[simp] theorem storeLoc_cfg (l : Loc) (v : Byte) (s : State) : (storeLoc l v s).cfg = s.cfg := by simp [storeLoc]
@[simp] theorem modifyLoc_fault (f : Cpu → Byte → Modified) (l : Loc) (s : State) : (modifyLoc f l s).fault = s.fault := by
  simp [modifyLoc]
@[simp] theorem modifyTarget_fault (f : Cpu → Byte → Modified) (t : Target) (s : State) : (modifyTarget f t s).fault = s.fault := by
  cases t <;> simp [modifyTarget]
@[simp] theorem modifyLoc_cfg (f : Cpu → Byte → Modified) (l : Loc) (s : State) : (modifyLoc f l s).cfg = s.cfg := by
  simp [modifyLoc]
@[simp] theorem modifyTarget_cfg (f : Cpu → Byte → Modified) (t : Target) (s : State) : (modifyTarget f t s).cfg = s.cfg := by
  cases t <;> simp [modifyTarget]

/-- The byte a read-modify-write reads (46_shift_incdec.md). -/
def modifyOld (l : Loc) (s : State) : Byte := (memRead (resolve .write l s).1 (resolve .write l s).2).1

@[simp] theorem modifyLoc_cpu (f : Cpu → Byte → Modified) (l : Loc) (s : State) :
    (modifyLoc f l s).cpu = s.cpu.setModified (f s.cpu (modifyOld l s)) := by
  simp [modifyLoc, modifyOld]

end Sys2Proof.Machine
end

