-- ==== Sys2Proof/Laws/Cpu.lean ====
section
/-! SUPPORT. The devices do not see the CPU: an operation of the bus commutes with a change of registers and flags. -/

namespace Sys2Proof.Machine

theorem renderDot_setCpu (s : State) (c : Cpu) : renderDot (s.setCpu c) = (renderDot s).setCpu c := by
  unfold renderDot
  dsimp +instances only [setCpu_ppu]
  split_ifs <;> rfl

theorem ppuFlagEvents_setCpu (s : State) (c : Cpu) : ppuFlagEvents (s.setCpu c) = (ppuFlagEvents s).setCpu c := by
  unfold ppuFlagEvents
  dsimp +instances only [setCpu_ppu]
  split_ifs <;> rfl

theorem ppuAdvanceDot_setCpu (s : State) (c : Cpu) : ppuAdvanceDot (s.setCpu c) = (ppuAdvanceDot s).setCpu c := by
  have h : ppuFlagEvents { s.setCpu c with ppu := s.ppu.nextPos } =
      (ppuFlagEvents { s with ppu := s.ppu.nextPos }).setCpu c := ppuFlagEvents_setCpu { s with ppu := s.ppu.nextPos } c
  unfold ppuAdvanceDot
  dsimp only [setCpu_ppu]
  rw [h]
  dsimp +instances only [setCpu_ppu]
  split_ifs
  · exact renderDot_setCpu _ c
  · rfl

theorem apuAdvance_setCpu (s : State) (c : Cpu) : apuAdvance (s.setCpu c) = (apuAdvance s).setCpu c := by
  unfold apuAdvance sampleTimerAdvance
  dsimp +instances only [setCpu_apu, setCpu_cfg]
  split_ifs <;> rfl

theorem tick_setCpu (s : State) (c : Cpu) : tick (s.setCpu c) = (tick s).setCpu c := by
  have h : tick (s.setCpu c) =
      apuAdvance (ppuAdvanceDot (ppuAdvanceDot (ppuAdvanceDot ({ s with cycles := s.cycles + 1 }.setCpu c)))) := rfl
  rw [h, ppuAdvanceDot_setCpu, ppuAdvanceDot_setCpu, ppuAdvanceDot_setCpu, apuAdvance_setCpu, tick]

theorem ppuRegRead_setCpu (r : PpuReg) (s : State) (c : Cpu) :
    ppuRegRead r (s.setCpu c) = ((ppuRegRead r s).1, (ppuRegRead r s).2.setCpu c) := by
  cases r <;> try rfl
  show ppuDataRead (s.setCpu c) = ((ppuDataRead s).1, (ppuDataRead s).2.setCpu c)
  unfold ppuDataRead
  dsimp +instances only [setCpu_ppu]
  split_ifs <;> rfl

theorem controllerRead_setCpu (s : State) (c : Cpu) :
    controllerRead (s.setCpu c) = ((controllerRead s).1, (controllerRead s).2.setCpu c) := by
  unfold controllerRead
  dsimp +instances only [setCpu_ctl]
  split_ifs <;> rfl

theorem busDecodeRead_setCpu (a : Word) (s : State) (c : Cpu) :
    busDecodeRead a (s.setCpu c) = ((busDecodeRead a s).1, (busDecodeRead a s).2.setCpu c) := by
  unfold busDecodeRead
  dsimp only
  split_ifs
  · rfl
  · exact ppuRegRead_setCpu _ s c
  · rfl
  · exact controllerRead_setCpu s c
  · rfl
  · rfl
  · unfold mapperRead
    split_ifs <;> rfl

theorem memRead_setCpu (a : Word) (s : State) (c : Cpu) :
    memRead a (s.setCpu c) = ((memRead a s).1, (memRead a s).2.setCpu c) := by
  rw [memRead, tick_setCpu, busDecodeRead_setCpu]
  rfl

theorem dummyRead_setCpu (a : Word) (s : State) (c : Cpu) : dummyRead a (s.setCpu c) = (dummyRead a s).setCpu c := by
  rw [dummyRead, memRead_setCpu]
  rfl

theorem ppuRegWrite_setCpu (r : PpuReg) (v : Byte) (s : State) (c : Cpu) :
    ppuRegWrite r v (s.setCpu c) = (ppuRegWrite r v s).setCpu c := by
  cases r
  case scroll =>
    show ppuScrollWrite v (s.setCpu c) = (ppuScrollWrite v s).setCpu c
    unfold ppuScrollWrite
    dsimp only [setCpu_ppu]
    split <;> rfl
  case addr =>
    show ppuAddrWrite v (s.setCpu c) = (ppuAddrWrite v s).setCpu c
    unfold ppuAddrWrite
    dsimp only [setCpu_ppu]
    split <;> rfl
  case data =>
    show ppuDataWrite v (s.setCpu c) = (ppuDataWrite v s).setCpu c
    unfold ppuDataWrite ppuWrite chrWrite
    dsimp +instances only [setCpu_ppu, setCpu_cfg]
    split_ifs <;> rfl
  all_goals rfl

theorem controllerWrite_setCpu (v : Byte) (s : State) (c : Cpu) :
    controllerWrite v (s.setCpu c) = (controllerWrite v s).setCpu c := by
  unfold controllerWrite sampleButtons
  dsimp only [setCpu_input]
  split_ifs
  · split <;> rfl
  · rfl

theorem busStore_setCpu (a : Word) (v : Byte) (s : State) (c : Cpu) :
    busStore a v (s.setCpu c) = (busStore a v s).setCpu c := by
  unfold busStore
  dsimp only
  split_ifs
  · rfl
  · exact ppuRegWrite_setCpu _ v s c
  · rfl
  · exact controllerWrite_setCpu v s c
  · rfl
  · rfl
  · unfold mapperWrite
    split_ifs <;> rfl

theorem oamDmaFrom_setCpu (page : Byte) (n i : Nat) (s : State) (c : Cpu) :
    oamDmaFrom page n i (s.setCpu c) = (oamDmaFrom page n i s).setCpu c := by
  induction n generalizing i s with
  | zero => rfl
  | succ n ih =>
    rw [oamDmaFrom, oamDmaFrom, memRead_setCpu]
    simp only [tick_setCpu, busStore_setCpu, ih]

theorem memWrite_setCpu (a : Word) (v : Byte) (s : State) (c : Cpu) :
    memWrite a v (s.setCpu c) = (memWrite a v s).setCpu c := by
  rw [memWrite, memWrite, busDecodeWrite, busDecodeWrite, tick_setCpu]
  split_ifs
  · exact oamDmaFrom_setCpu v 256 0 _ c
  · exact busStore_setCpu a v _ c

end Sys2Proof.Machine
end

