-- ==== Sys2Proof/Laws/Bus.lean ====
section
/-! SUPPORT. Lists of bus accesses, and each shared operation of Ops and Operands as the accesses it makes. -/

namespace Sys2Proof.Machine

/-! ## Lists of accesses -/

@[simp] theorem busRun_nil (s : State) : busRun [] s = s := rfl

@[simp] theorem busRun_cons (o : BusOp) (l : List BusOp) (s : State) : busRun (o :: l) s = busRun l (o.run s) := rfl

theorem busRun_append (l m : List BusOp) (s : State) : busRun (l ++ m) s = busRun m (busRun l s) := by
  induction l generalizing s with
  | nil => rfl
  | cons o l ih => exact ih _

@[simp] theorem run_read (a : Word) (s : State) : (BusOp.read a).run s = dummyRead a s := rfl

@[simp] theorem run_write (a : Word) (v : Byte) (s : State) : (BusOp.write a v).run s = memWrite a v s := rfl

theorem run_setCpu (o : BusOp) (s : State) (c : Cpu) : o.run (s.setCpu c) = (o.run s).setCpu c := by
  cases o with
  | read a => exact dummyRead_setCpu a s c
  | write a v => exact memWrite_setCpu a v s c

/-- An access sees no CPU register. -/
theorem busRun_setCpu (l : List BusOp) (s : State) (c : Cpu) : busRun l (s.setCpu c) = (busRun l s).setCpu c := by
  induction l generalizing s with
  | nil => rfl
  | cons o l ih => rw [busRun_cons, run_setCpu, ih, busRun_cons]

@[simp] theorem busRun_cpu (l : List BusOp) (s : State) : (busRun l s).cpu = s.cpu := by
  induction l generalizing s with
  | nil => rfl
  | cons o l ih => cases o <;> simp [ih]

@[simp] theorem busRun_cfg (l : List BusOp) (s : State) : (busRun l s).cfg = s.cfg := by
  induction l generalizing s with
  | nil => rfl
  | cons o l ih => cases o <;> simp [ih]

@[simp] theorem busRun_fault (l : List BusOp) (s : State) : (busRun l s).fault = s.fault := by
  induction l generalizing s with
  | nil => rfl
  | cons o l ih => cases o <;> simp [ih]

theorem run_cycles (o : BusOp) (s : State) : (o.run s).cycles = s.cycles + o.ticks := by
  cases o with
  | read a => simp [BusOp.ticks]
  | write a v => rw [run_write, memWrite_cycles, BusOp.ticks]

theorem busRun_cycles (l : List BusOp) (s : State) : (busRun l s).cycles = s.cycles + busTicks l := by
  induction l generalizing s with
  | nil => rfl
  | cons o l ih => rw [busRun_cons, ih, run_cycles, busTicks, busTicks, List.map_cons, List.sum_cons, Nat.add_assoc]

/-- Setting the CPU to what it was is nothing. -/
@[simp] theorem setCpu_self (s : State) : s.setCpu s.cpu = s := rfl

@[simp] theorem setCpu_setCpu (s : State) (c d : Cpu) : (s.setCpu c).setCpu d = s.setCpu d := rfl

theorem setPc_eq (s : State) (w : Word) : s.setPc w = s.setCpu { s.cpu with pc := w } := rfl

theorem setSp_eq (s : State) (v : Byte) : s.setSp v = s.setCpu { s.cpu with sp := v } := rfl

/-! ## Addresses -/

theorem zeroPage_eq (d : Byte) : zeroPage d = BitVec.ofNat 16 d.toNat := by
  apply BitVec.eq_of_toNat_eq
  have := d.isLt
  simp only [toNat_zeroPage, BitVec.toNat_ofNat]
  omega

theorem zeroPage_add (d x : Byte) : zeroPage (d + x) = BitVec.ofNat 16 ((d.toNat + x.toNat) % 256) := by
  rw [zeroPage_eq, BitVec.toNat_add]

theorem indexed_eq (base : Word) (idx : Byte) : indexed base idx = BitVec.ofNat 16 (base.toNat + idx.toNat) := by
  apply BitVec.eq_of_toNat_eq
  rw [toNat_indexed, BitVec.toNat_ofNat]

theorem uncorrected_eq (base : Word) (idx : Byte) :
    uncorrected base idx = BitVec.ofNat 16 (base.toNat / 256 * 256 + (base.toNat + idx.toNat) % 256) := by
  apply BitVec.eq_of_toNat_eq
  have := base.isLt
  rw [uncorrected, toNat_mkWord, BitVec.toNat_add, toNat_hiByte, toNat_loByte, BitVec.toNat_ofNat]
  omega

theorem stackAddr_eq (s : State) : stackAddr s.cpu.sp = stackByte s 0 := by
  apply BitVec.eq_of_toNat_eq
  have := s.cpu.sp.isLt
  rw [toNat_stackAddr, stackByte, BitVec.toNat_ofNat]
  omega

theorem stackByte_congr {s t : State} (h : t.cpu.sp = s.cpu.sp) (k : Int) : stackByte t k = stackByte s k := by
  rw [stackByte, h, stackByte]

theorem toNat_stackByte (s : State) (k : Int) :
    (stackByte s k).toNat = 256 + ((s.cpu.sp.toNat + k) % 256).toNat := by
  rw [stackByte, BitVec.toNat_ofNat]
  omega

theorem stackByte_inRam (s : State) (k : Int) : InRam (stackByte s k) := by
  rw [InRam, toNat_stackByte]
  omega

/-- The stack address of SP plus a constant. -/
theorem stackAddr_add (s : State) (k : Nat) : stackAddr (s.cpu.sp + BitVec.ofNat 8 k) = stackByte s k := by
  apply BitVec.eq_of_toNat_eq
  rw [toNat_stackAddr, toNat_stackByte, BitVec.toNat_add, BitVec.toNat_ofNat]
  omega

/-- The stack address of SP less a constant. -/
theorem stackAddr_sub (s : State) (k : Nat) : stackAddr (s.cpu.sp - BitVec.ofNat 8 k) = stackByte s (-(k : Int)) := by
  apply BitVec.eq_of_toNat_eq
  have := s.cpu.sp.isLt
  rw [toNat_stackAddr, toNat_stackByte, BitVec.toNat_sub, BitVec.toNat_ofNat]
  omega

theorem readPointer_eq (p : Byte) (s : State) :
    readPointer p s = (zpPointer p s,
      busRun [.read (BitVec.ofNat 16 (p.toNat % 256)), .read (BitVec.ofNat 16 ((p.toNat + 1) % 256))] s) := by
  have hp := p.isLt
  have h1 : (p + 1).toNat = (p.toNat + 1) % 256 := by rw [BitVec.toNat_add]; rfl
  have h2 : zeroPage (p + 1) = BitVec.ofNat 16 ((p.toNat + 1) % 256) := by rw [zeroPage_eq, h1]
  have h3 : zeroPage p = BitVec.ofNat 16 (p.toNat % 256) := by rw [zeroPage_eq, Nat.mod_eq_of_lt hp]
  refine Prod.ext ?_ ?_
  · rw [readPointer_value, h1, zpPointer]
  · rw [← h2, ← h3]
    rfl

theorem indexAccess_eq (k : Access) (base : Word) (idx : Byte) (s : State) :
    indexAccess k base idx s = (BitVec.ofNat 16 (base.toNat + idx.toNat), busRun (indexReads k base idx) s) := by
  rw [← indexed_eq]
  cases k with
  | read =>
    simp only [indexAccess, uncorrected_eq_indexed, indexReads, ← uncorrected_eq]
    by_cases h : base.toNat % 256 + idx.toNat < 256
    · rw [if_pos h, if_neg (show ¬crosses base idx by simp only [crosses]; omega), busRun_nil]
    · rw [if_neg h, if_pos (show crosses base idx by simp only [crosses]; omega)]
      rfl
  | write =>
    simp only [indexAccess, indexReads, ← uncorrected_eq]
    rfl

/-- Resolving an operand gives the effective address and makes the reads of its mode (R113 to R118). -/
theorem resolve_eq (k : Access) (l : Loc) (s : State) :
    resolve k l s = (effAddr l s, busRun (locReads k l s) s) := by
  have hz (d : Byte) : zeroPage d = BitVec.ofNat 16 (d.toNat % 256) := by
    rw [zeroPage_eq, Nat.mod_eq_of_lt d.isLt]
  cases l with
  | zp d => simp only [resolve, effAddr, locReads, zeroPage_eq, busRun_nil]
  | zpx d => simp only [resolve, effAddr, locReads, zeroPage_add, hz d]; rfl
  | zpy d => simp only [resolve, effAddr, locReads, zeroPage_add, hz d]; rfl
  | abs a => rfl
  | abx a => simp only [resolve, effAddr, locReads, indexAccess_eq]
  | aby a => simp only [resolve, effAddr, locReads, indexAccess_eq]
  | izx d =>
    have h1 : (d + s.cpu.x).toNat = (d.toNat + s.cpu.x.toNat) % 256 := BitVec.toNat_add d s.cpu.x
    have h2 : (d.toNat + s.cpu.x.toNat) % 256 % 256 = (d.toNat + s.cpu.x.toNat) % 256 := Nat.mod_mod _ _
    have h3 : ((d.toNat + s.cpu.x.toNat) % 256 + 1) % 256 = (d.toNat + s.cpu.x.toNat + 1) % 256 := by omega
    simp only [resolve, readPointer_eq, effAddr, locReads, hz d, h1, h2, h3, zpPointer, dummyRead_ram]
    rfl
  | izy d =>
    simp only [resolve, readPointer_eq, indexAccess_eq, effAddr, locReads, busRun_append]

/-- A read-kind operand: its byte and its accesses (R112 to R118). -/
theorem readSrc_eq (o : Src) (s : State) : readSrc o s = (srcByte o s, busRun (srcReads o s) s) := by
  cases o with
  | imm v => rfl
  | mem l => simp only [readSrc, resolve_eq, srcByte, srcReads, busRun_append]; rfl

/-- A read-kind instruction: its accesses, then its registers and flags. -/
theorem withOperand_eq (f : Cpu → Byte → Cpu) (o : Src) (s : State) :
    withOperand f o s = (busRun (srcReads o s) s).setCpu (f s.cpu (srcByte o s)) := by
  simp only [withOperand, readSrc_eq, busRun_cpu]

theorem storeLoc_eq (l : Loc) (v : Byte) (s : State) : storeLoc l v s = busRun (storeBus l v s) s := by
  simp only [storeLoc, resolve_eq, storeBus, busRun_append]
  rfl

/-- A read-modify-write: its accesses, then its flags (46_shift_incdec.md). -/
theorem modifyLoc_eq (f : Cpu → Byte → Modified) (l : Loc) (s : State) :
    modifyLoc f l s =
      (busRun (modifyBus l (f s.cpu (oldByte l s)).new s) s).setCpu (s.cpu.setModified (f s.cpu (oldByte l s))) := by
  simp only [modifyLoc, resolve_eq, modifyBus, busRun_append, busRun_cons, busRun_nil, run_read, run_write, memWrite_cpu,
    memRead_cpu, busRun_cpu]
  rfl

theorem modifyAcc_eq (f : Cpu → Byte → Modified) (s : State) :
    modifyAcc f s =
      (busRun [.read s.cpu.pc] s).setCpu ({ s.cpu with a := (f s.cpu s.cpu.a).new }.setModified (f s.cpu s.cpu.a)) := by
  simp only [modifyAcc, dummyRead_cpu]
  rfl

theorem implied_eq (f : Cpu → Cpu) (s : State) : implied f s = (busRun [.read s.cpu.pc] s).setCpu (f s.cpu) := by
  simp only [implied, dummyRead_cpu]
  rfl

theorem readAndDiscard_eq (l : Loc) (s : State) : readAndDiscard l s = busRun (srcReads (.mem l) s) s := by
  rw [readAndDiscard, readSrc_eq]

theorem hiByte_eq_iff (a b : Word) : hiByte a = hiByte b ↔ a.toNat / 256 = b.toNat / 256 := by
  rw [← BitVec.toNat_inj, toNat_hiByte, toNat_hiByte]

theorem branchTarget_eq (d : Byte) (s : State) : s.cpu.pc + sext8 d = branchTarget d s := by
  apply BitVec.eq_of_toInt_eq
  rw [branchTarget, sext8, BitVec.toInt_add, BitVec.toInt_signExtend_of_le (by decide), BitVec.toInt_ofInt,
    BitVec.toInt_eq_toNat_bmod s.cpu.pc]
  simp

/-- A branch: its dummy reads and its target (R120, R220). -/
theorem branch_eq (taken : Bool) (d : Byte) (s : State) :
    branch taken d s = (busRun (branchReads taken d s) s).setCpu
      { s.cpu with pc := if taken then branchTarget d s else s.cpu.pc } := by
  cases taken with
  | false => rfl
  | true =>
    simp only [branch, branchTarget_eq, hiByte_eq_iff, branchReads, if_true]
    have hw : mkWord (hiByte s.cpu.pc) (loByte (branchTarget d s)) =
        BitVec.ofNat 16 (s.cpu.pc.toNat / 256 * 256 + (branchTarget d s).toNat % 256) := by
      apply BitVec.eq_of_toNat_eq
      have := s.cpu.pc.isLt
      rw [toNat_mkWord, toNat_hiByte, toNat_loByte, BitVec.toNat_ofNat]
      omega
    rw [hw, setPc_eq]
    split_ifs <;> simp

/-! ## Stack and vectors -/

theorem push_eq_bus (v : Byte) (s : State) :
    push v s = (busRun [.write (stackByte s 0) v] s).setCpu { s.cpu with sp := s.cpu.sp - 1 } := by
  rw [push, stackAddr_eq, setSp_eq, memWrite_cpu]
  rfl

/-- Pushing a word: its high byte, then its low byte (R202, R205, R416). -/
theorem pushWord_eq (w : Word) (s : State) :
    pushWord w s = (busRun (pushBus s [hiByte w, loByte w]) s).setCpu { s.cpu with sp := s.cpu.sp - 1 - 1 } := by
  have h : stackByte (push (hiByte w) s) 0 = stackByte s (-1) := by
    rw [← stackAddr_eq, push_cpu]
    exact stackAddr_sub s 1
  rw [pushWord, push_eq_bus, h, push_cpu, push_eq_bus, busRun_setCpu, setCpu_setCpu, ← busRun_append]
  rfl

theorem pull_eq_bus (s : State) :
    (pull s).2 = (busRun [.read (stackByte s 1)] s).setCpu { s.cpu with sp := s.cpu.sp + 1 } := by
  have h : stackAddr (s.cpu.sp + 1) = stackByte s 1 := stackAddr_add s 1
  rw [pull, setSp_eq]
  dsimp only [setCpu_cpu]
  rw [memRead_setCpu, h]
  rfl

theorem pullWord_eq (s : State) :
    (pullWord s).2 = (busRun [.read (stackByte s 1), .read (stackByte s 2)] s).setCpu
      { s.cpu with sp := s.cpu.sp + 1 + 1 } := by
  have h : stackByte (pull s).2 1 = stackByte s 2 := by
    refine (stackAddr_add (pull s).2 1).symm.trans (Eq.trans ?_ (stackAddr_add s 2))
    rw [pull_cpu]
    exact congrArg stackAddr (BitVec.add_assoc s.cpu.sp 1 1)
  show (pull (pull s).2).2 = _
  rw [pull_eq_bus, h, pull_cpu, pull_eq_bus, busRun_setCpu, setCpu_setCpu, ← busRun_append]
  rfl

theorem peek_stackByte (s : State) (k : Int) :
    peek s (stackByte s k) = memGet s.ram (256 + ((s.cpu.sp.toNat + k) % 256).toNat) := by
  rw [peek_inRam (stackByte_inRam s k), ramGet, toNat_stackByte, Nat.mod_eq_of_lt (by omega)]

theorem sp_add_toNat (p : Byte) (k : Nat) : (p + BitVec.ofNat 8 k).toNat = ((p.toNat + (k : Int)) % 256).toNat := by
  rw [BitVec.toNat_add, BitVec.toNat_ofNat]
  omega

/-- A pull gives the stack byte above SP (R11, R22). -/
theorem pull_byte (s : State) : (pull s).1 = peek s (stackByte s 1) := by
  rw [pull_value, peek_stackByte]
  exact congrArg (fun n => memGet s.ram (256 + n)) (sp_add_toNat s.cpu.sp 1)

/-- A pulled word: the byte above SP is its low byte, the next one its high byte (R203, R204). -/
theorem pullWord_word (s : State) : (pullWord s).1 = mkWord (peek s (stackByte s 2)) (peek s (stackByte s 1)) := by
  rw [pullWord_value, peek_stackByte, peek_stackByte, BitVec.add_assoc]
  exact congrArg₂ (fun m n => mkWord (memGet s.ram (256 + m)) (memGet s.ram (256 + n))) (sp_add_toNat s.cpu.sp 2)
    (sp_add_toNat s.cpu.sp 1)

theorem readVector_eq (v : Word) (s : State) : (readVector v s).2 = busRun [.read v, .read (v + 1)] s := rfl

/-- Pushing a word and a byte (R205, R416). -/
theorem pushThree_eq (v : Byte) (w : Word) (s : State) :
    push v (pushWord w s) = (busRun (pushBus s [hiByte w, loByte w, v]) s).setCpu
      { s.cpu with sp := s.cpu.sp - 1 - 1 - 1 } := by
  have h : stackByte (pushWord w s) 0 = stackByte s (-2) := by
    rw [← stackAddr_eq, pushWord_cpu]
    show stackAddr (s.cpu.sp - 1#8 - 1#8) = _
    rw [BitVec.sub_sub]
    exact stackAddr_sub s 2
  rw [push_eq_bus, h, pushWord_cpu, pushWord_eq, busRun_setCpu, setCpu_setCpu, ← busRun_append]
  rfl

/-- Taking an interrupt through a vector in PRG space: three pushes, the vector's two bytes, then `pc`, SP and I
(R205, R416). -/
theorem takeInterrupt_eq {v : Word} (h : InRom v) (h1 : InRom (v + 1)) (b : Bool) (s : State) :
    takeInterrupt b v s =
      (busRun (pushBus s [hiByte s.cpu.pc, loByte s.cpu.pc, s.cpu.statusForPush b] ++ [.read v, .read (v + 1)]) s).setCpu
        { s.cpu with sp := s.cpu.sp - 1 - 1 - 1, pc := peekWord s v, i := true } := by
  have hp : (readVector v (push (s.cpu.statusForPush b) (pushWord s.cpu.pc s))).1 = peekWord s v := by
    rw [← takeInterrupt_pc h h1 b s, takeInterrupt_cpu]
  rw [takeInterrupt]
  dsimp only
  rw [hp, readVector_cpu, readVector_eq, push_cpu, pushWord_cpu, pushThree_eq, busRun_setCpu, setCpu_setCpu,
    busRun_append]

end Sys2Proof.Machine
end

