-- ==== Sys2Proof/Laws/Decode.lean ====
section
/-! SUPPORT. What the decoder gives for a row of each format (R101, R109), and the bytes of a word. -/

namespace Sys2Proof

theorem decode_f1 {op : Byte} {i : Instr} (h : opcodeRow op = .f1 i) (rest : List Byte) :
    decode (op :: rest) = .ok (i, rest) := by
  simp only [decode, h]

theorem decode_f2 {op : Byte} {g : Byte → Instr} (h : opcodeRow op = .f2 g) (d : Byte) (rest : List Byte) :
    decode (op :: d :: rest) = .ok (g d, rest) := by
  simp only [decode, h]

theorem decode_f3 {op : Byte} {g : Word → Instr} (h : opcodeRow op = .f3 g) (lo hi : Byte) (rest : List Byte) :
    decode (op :: lo :: hi :: rest) = .ok (g (mkWord hi lo), rest) := by
  simp only [decode, h]

theorem decode_f3late {op : Byte} {g : Byte → Byte → Instr} (h : opcodeRow op = .f3late g) (lo hi : Byte)
    (rest : List Byte) : decode (op :: lo :: hi :: rest) = .ok (g lo hi, rest) := by
  simp only [decode, h]

/-- Every row is well-formed with zero operands, and its encoding begins with its own opcode byte. -/
theorem row_encode (op : Byte) :
    ((opcodeRow op).instr 0 0).wf = true ∧
      encode ((opcodeRow op).instr 0 0) = op :: List.replicate ((opcodeRow op).len - 1) 0 := by
  revert op
  decide +kernel

/-- The rows of the undefined opcodes are those of R126. -/
theorem row_undef (op : Byte) : op ∈ undefBytes ↔ (opcodeRow op).instr 0 0 = .undef op := by
  revert op
  decide +kernel

end Sys2Proof
end

