-- ==== Sys2Proof/Laws/Flags.lean ====
section
/-! SUPPORT. The flag computations of Machine/Flags.lean in the terms of Safety.lean. -/

namespace Sys2Proof.Machine

/-- N and Z of a byte, by its value (R10). -/
theorem setNZ_eq (c : Cpu) (v : Byte) : c.setNZ v = c.withNZ v := by
  have h1 : v.getLsbD 7 = decide (128 ≤ v.toNat) := by revert v; decide
  have h2 : (v == 0) = decide (v.toNat = 0) := by revert v; decide
  rw [Cpu.setNZ, Cpu.withNZ, h1, h2]

/-- The pushed status byte as the sum of its bits (R25). -/
theorem statusForPush_eq (c : Cpu) (b : Bool) : c.statusForPush b = statusSum c b := by
  obtain ⟨_, _, _, _, _, n, v, d, i, z, cc⟩ := c
  revert n v d i z cc b
  simp only [Cpu.statusForPush, statusSum]
  decide

/-- The flags of a pulled status byte, bit by bit (R25). -/
theorem setStatus_eq (c : Cpu) (v : Byte) : c.setStatus v = c.withStatus v := by
  have h (k : Nat) : v.getLsbD k = decide (v.toNat / 2 ^ k % 2 = 1) := by
    rw [BitVec.getLsbD, Nat.testBit_eq_decide_div_mod_eq]
  rw [Cpu.setStatus, Cpu.withStatus]
  simp only [h]

/-- Pulling a pushed status byte gives the flags it was made of; bits 5 and 4 go nowhere (R25, R28). -/
theorem setStatus_statusForPush (c d : Cpu) (b : Bool) :
    d.setStatus (c.statusForPush b) =
      { d with n := c.n, v := c.v, d := c.d, i := c.i, z := c.z, c := c.c } := by
  obtain ⟨_, _, _, _, _, n, v, dd, i, z, cc⟩ := c
  rw [Cpu.setStatus, Cpu.mk.injEq]
  simp only [Cpu.statusForPush, true_and]
  revert n v dd i z cc b
  decide

theorem bit7_eq (b : Byte) : b.getLsbD 7 = decide (128 ≤ b.toNat) := by
  revert b
  decide

/-- ADC's V is the signed overflow of the sum (R260). -/
theorem adc_overflow (a m : Byte) (c : Bool) :
    (~~~(a ^^^ m) &&& (a ^^^ BitVec.ofNat 8 (a.toNat + m.toNat + c.toNat))).getLsbD 7 =
      decide (a.toInt + m.toInt + c.toNat < -128 ∨ 127 < a.toInt + m.toInt + c.toNat) := by
  have h1 := a.isLt
  have h2 := m.isLt
  have h3 : c.toNat ≤ 1 := by cases c <;> decide
  rw [BitVec.getLsbD_and, BitVec.getLsbD_not, BitVec.getLsbD_xor, BitVec.getLsbD_xor, bit7_eq, bit7_eq, bit7_eq,
    BitVec.toNat_ofNat, BitVec.toInt_eq_toNat_cond, BitVec.toInt_eq_toNat_cond, Bool.eq_iff_iff]
  by_cases a1 : 128 ≤ a.toNat <;> by_cases a2 : 128 ≤ m.toNat <;> simp [a1, a2] <;> split_ifs <;> omega

/-- SBC's V is the signed overflow of the difference (R261). -/
theorem sbc_overflow (a m : Byte) (c : Bool) :
    ((a ^^^ m) &&& (a ^^^ BitVec.ofInt 8 ((a.toNat : Int) - m.toNat - (1 - c.toNat)))).getLsbD 7 =
      decide (a.toInt - m.toInt - (1 - c.toNat) < -128 ∨ 127 < a.toInt - m.toInt - (1 - c.toNat)) := by
  have h1 := a.isLt
  have h2 := m.isLt
  have h3 : c.toNat ≤ 1 := by cases c <;> decide
  rw [BitVec.getLsbD_and, BitVec.getLsbD_xor, BitVec.getLsbD_xor, bit7_eq, bit7_eq, bit7_eq, BitVec.toNat_ofInt,
    BitVec.toInt_eq_toNat_cond, BitVec.toInt_eq_toNat_cond, Bool.eq_iff_iff]
  by_cases a1 : 128 ≤ a.toNat <;> by_cases a2 : 128 ≤ m.toNat <;> simp [a1, a2] <;> split_ifs <;> omega

/-- A compare's N is bit 7 of the difference modulo 256 (R262). -/
theorem compare_negative (a m : Byte) :
    (BitVec.ofInt 8 ((a.toNat : Int) - m.toNat)).getLsbD 7 = decide (128 ≤ (a.toNat + 256 - m.toNat) % 256) := by
  have h1 := a.isLt
  have h2 := m.isLt
  rw [bit7_eq, BitVec.toNat_ofInt]
  congr 2
  omega

end Sys2Proof.Machine
end

