-- ==== Sys2Proof/Laws/Frames.lean ====
section
/-! SUPPORT. What lists of bus accesses leave alone: reads, stores, pushes. -/

namespace Sys2Proof.Machine

/-! ## Reads -/

theorem memRead_strobe (a : Word) (s : State) : (memRead a s).2.ctl.strobe = s.ctl.strobe := by
  rw [memRead, busDecodeRead]
  split_ifs
  · simp
  · simp
  · simp
  · rw [controllerRead]
    split_ifs <;> simp
  · simp
  · simp
  · simp

theorem ReadsOnly.refl (s : State) : ReadsOnly s s where
  cfg := rfl
  fault := rfl
  chrRam := rfl
  oam := rfl
  nametable := rfl
  palette := rfl
  ctrl := rfl
  mask := rfl
  oamAddr := rfl
  scrollX := rfl
  scrollY := rfl
  bytes _ _ := rfl
  ram := rfl
  mapper := rfl
  strobe := rfl
  input := rfl

theorem PpuKept.trans {s t u : State} (h : PpuKept s t) (k : PpuKept t u) : PpuKept s u where
  chrRam := k.chrRam.trans h.chrRam
  oam := k.oam.trans h.oam
  nametable := k.nametable.trans h.nametable
  palette := k.palette.trans h.palette
  ctrl := k.ctrl.trans h.ctrl
  mask := k.mask.trans h.mask
  oamAddr := k.oamAddr.trans h.oamAddr
  scrollX := k.scrollX.trans h.scrollX
  scrollY := k.scrollY.trans h.scrollY

theorem Kept.trans {s t u : State} (h : Kept s t) (k : Kept t u) : Kept s u where
  cfg := k.cfg.trans h.cfg
  fault := k.fault.trans h.fault

theorem ReadsOnly.trans {s t u : State} (h : ReadsOnly s t) (k : ReadsOnly t u) : ReadsOnly s u where
  toKept := h.toKept.trans k.toKept
  toPpuKept := h.toPpuKept.trans k.toPpuKept
  bytes a ha := (k.bytes a ha).trans (h.bytes a ha)
  ram := k.ram.trans h.ram
  mapper := k.mapper.trans h.mapper
  strobe := k.strobe.trans h.strobe
  input := k.input.trans h.input

theorem dummyRead_readsOnly (a : Word) (s : State) : ReadsOnly s (dummyRead a s) where
  cfg := by simp
  fault := by simp
  chrRam := by simp
  oam := by simp
  nametable := by simp
  palette := by simp
  ctrl := by simp
  mask := by simp
  oamAddr := by simp
  scrollX := by simp
  scrollY := by simp
  bytes b hb := peek_plain_congr hb (by simp) (by simp) (by simp)
  ram := by simp
  mapper := by simp
  strobe := memRead_strobe a s
  input := by simp

theorem setCpu_ppuKept {s t : State} (h : PpuKept s t) (c : Cpu) : PpuKept s (t.setCpu c) :=
  ⟨h.chrRam, h.oam, h.nametable, h.palette, h.ctrl, h.mask, h.oamAddr, h.scrollX, h.scrollY⟩

theorem setCpu_kept {s t : State} (h : Kept s t) (c : Cpu) : Kept s (t.setCpu c) := ⟨h.cfg, h.fault⟩

theorem setCpu_peek (s : State) (c : Cpu) (a : Word) : peek (s.setCpu c) a = peek s a := by
  rw [peek, busDecodeRead_setCpu, peek]

theorem setCpu_readsOnly {s t : State} (h : ReadsOnly s t) (c : Cpu) : ReadsOnly s (t.setCpu c) where
  toKept := setCpu_kept h.toKept c
  toPpuKept := setCpu_ppuKept h.toPpuKept c
  bytes a ha := (setCpu_peek t c a).trans (h.bytes a ha)
  ram := h.ram
  mapper := h.mapper
  strobe := h.strobe
  input := h.input

/-- The accesses are all reads. -/
abbrev AllReads (l : List BusOp) : Prop := ∀ o ∈ l, ∃ a, o = .read a

/-- Reads leave memory, the written PPU registers and the mapper alone. -/
theorem busRun_readsOnly {l : List BusOp} (h : AllReads l) (s : State) : ReadsOnly s (busRun l s) := by
  induction l generalizing s with
  | nil => exact .refl s
  | cons o l ih =>
    obtain ⟨a, rfl⟩ := h o (by simp)
    exact (dummyRead_readsOnly a s).trans (ih (fun p hp => h p (by simp [hp])) _)

theorem indexReads_reads (k : Access) (base : Word) (idx : Byte) : AllReads (indexReads k base idx) := by
  intro o ho
  cases k with
  | read =>
    simp only [indexReads] at ho
    split at ho
    · exact ⟨_, List.mem_singleton.1 ho⟩
    · simp at ho
  | write => exact ⟨_, List.mem_singleton.1 ho⟩

theorem locReads_reads (k : Access) (l : Loc) (s : State) : AllReads (locReads k l s) := by
  intro o ho
  cases l with
  | abx a => exact indexReads_reads k a _ o ho
  | aby a => exact indexReads_reads k a _ o ho
  | izy d =>
    rcases List.mem_append.1 ho with h | h
    · simp at h
      rcases h with rfl | rfl <;> exact ⟨_, rfl⟩
    · exact indexReads_reads k _ _ o h
  | izx d =>
    simp [locReads] at ho
    rcases ho with rfl | rfl | rfl <;> exact ⟨_, rfl⟩
  | zpx d => exact ⟨_, List.mem_singleton.1 ho⟩
  | zpy d => exact ⟨_, List.mem_singleton.1 ho⟩
  | zp d => simp [locReads] at ho
  | abs a => simp [locReads] at ho

theorem srcReads_reads (o : Src) (s : State) : AllReads (srcReads o s) := by
  intro p hp
  cases o with
  | imm v => simp [srcReads] at hp
  | mem l =>
    rcases List.mem_append.1 hp with h | h
    · exact locReads_reads .read l s p h
    · exact ⟨_, List.mem_singleton.1 h⟩

theorem branchReads_reads (b : Bool) (d : Byte) (s : State) : AllReads (branchReads b d s) := by
  intro o ho
  simp only [branchReads] at ho
  split_ifs at ho
  · exact ⟨_, List.mem_singleton.1 ho⟩
  · simp at ho
    rcases ho with rfl | rfl <;> exact ⟨_, rfl⟩
  · simp at ho

/-! ## Stores -/

theorem peek_ram (s : State) {a : Word} (h : InRam a) : peek s a = memGet s.ram (a.toNat % 0x800) := peek_inRam h s

theorem busStore_ppuKept {a : Word} (v : Byte) (s : State) (h : ¬(0x2000 ≤ a.toNat ∧ a.toNat < 0x4000)) :
    PpuKept s (busStore a v s) := by
  rw [busStore]
  split_ifs with h1 h2
  · exact ⟨rfl, rfl, rfl, rfl, rfl, rfl, rfl, rfl, rfl⟩
  · omega
  · exact ⟨rfl, rfl, rfl, rfl, rfl, rfl, rfl, rfl, rfl⟩
  · constructor <;> simp
  · exact ⟨rfl, rfl, rfl, rfl, rfl, rfl, rfl, rfl, rfl⟩
  · exact ⟨rfl, rfl, rfl, rfl, rfl, rfl, rfl, rfl, rfl⟩
  · constructor <;> simp

theorem busStore_controllerKept {a : Word} (v : Byte) (s : State) (h : a.toNat ≠ 0x4016) :
    (busStore a v s).ctl = s.ctl ∧ (busStore a v s).input = s.input := by
  rw [busStore]
  split_ifs <;> simp_all

theorem oamDmaFrom_strobe (page : Byte) (n i : Nat) (s : State) :
    (oamDmaFrom page n i s).ctl.strobe = s.ctl.strobe := by
  induction n generalizing i s with
  | zero => rfl
  | succ n ih =>
    rw [oamDmaFrom, ih]
    show (oamDataWrite _ (tick _)).ctl.strobe = _
    rw [oamDataWrite_ctl, tick_ctl, memRead_strobe]

theorem tick_ppuKept (s : State) : PpuKept s (tick s) := by constructor <;> simp

/-- One bus write (R63, R65, R66, R72, R78). -/
theorem memWrite_storesOnly {s : State} (h : Rising s.ram) (a : Word) (v : Byte) : StoresOnly a v s (memWrite a v s) where
  cfg := by simp
  fault := by simp
  stored b hb ha hs := by
    rw [InRam] at ha
    rw [peek_ram _ hb, memWrite_ram, if_pos ha, memGet_memSet h, if_pos (show b.toNat % 0x800 = a.toNat % 0x800 from hs)]
  ramKept b hb hn := by
    rw [peek_ram _ hb, memWrite_ram, peek_ram _ hb]
    split_ifs with ha
    · rw [memGet_memSet h, if_neg (show ¬b.toNat % 0x800 = a.toNat % 0x800 from fun hs => hn ⟨ha, hs⟩)]
    · rfl
  romKept b hb ha := by
    rw [InRom] at ha
    rw [peek_inRom hb, peek_inRom hb, prgRead, prgRead, memWrite_mapper, if_neg ha, memWrite_cfg]
  mapperKept ha := by
    rw [InRom] at ha
    rw [memWrite_mapper, if_neg ha]
  ppuKept ha h4 := by
    rw [memWrite, busDecodeWrite, if_neg h4]
    exact (tick_ppuKept s).trans (busStore_ppuKept v _ ha)
  controllerKept ha := by
    rw [memWrite, busDecodeWrite]
    split_ifs
    · exact ⟨by rw [oamDma, oamDmaFrom_strobe, tick_ctl], by simp [oamDma]⟩
    · have hn : a.toNat ≠ 0x4016 := fun hc => ha (BitVec.eq_of_toNat_eq hc)
      obtain ⟨h1, h2⟩ := busStore_controllerKept v (tick s) hn
      exact ⟨by rw [h1, tick_ctl], by rw [h2, tick_input]⟩

theorem StoresOnly.after_reads {s t u : State} {ea : Word} {v : Byte} (h : ReadsOnly s t) (k : StoresOnly ea v t u) :
    StoresOnly ea v s u where
  toKept := h.toKept.trans k.toKept
  stored := k.stored
  ramKept a ha hn := (k.ramKept a ha hn).trans (h.bytes a (.inl ha))
  romKept a ha hn := (k.romKept a ha hn).trans (h.bytes a (.inr ha))
  mapperKept ha := (k.mapperKept ha).trans h.mapper
  ppuKept h1 h2 := h.toPpuKept.trans (k.ppuKept h1 h2)
  controllerKept h1 := ⟨(k.controllerKept h1).1.trans h.strobe, (k.controllerKept h1).2.trans h.input⟩

theorem StoresOnly.trans {s t u : State} {ea : Word} {v w : Byte} (h : StoresOnly ea v s t) (k : StoresOnly ea w t u) :
    StoresOnly ea w s u where
  toKept := h.toKept.trans k.toKept
  stored := k.stored
  ramKept a ha hn := (k.ramKept a ha hn).trans (h.ramKept a ha hn)
  romKept a ha hn := (k.romKept a ha hn).trans (h.romKept a ha hn)
  mapperKept ha := (k.mapperKept ha).trans (h.mapperKept ha)
  ppuKept h1 h2 := (h.ppuKept h1 h2).trans (k.ppuKept h1 h2)
  controllerKept h1 :=
    ⟨(k.controllerKept h1).1.trans (h.controllerKept h1).1, (k.controllerKept h1).2.trans (h.controllerKept h1).2⟩

theorem setCpu_storesOnly {s t : State} {ea : Word} {v : Byte} (h : StoresOnly ea v s t) (c : Cpu) :
    StoresOnly ea v s (t.setCpu c) where
  toKept := setCpu_kept h.toKept c
  stored a h1 h2 h3 := (setCpu_peek t c a).trans (h.stored a h1 h2 h3)
  ramKept a h1 h2 := (setCpu_peek t c a).trans (h.ramKept a h1 h2)
  romKept a h1 h2 := (setCpu_peek t c a).trans (h.romKept a h1 h2)
  mapperKept := h.mapperKept
  ppuKept h1 h2 := setCpu_ppuKept (h.ppuKept h1 h2) c
  controllerKept := h.controllerKept

theorem memWrite_rising {s : State} (h : Rising s.ram) (a : Word) (v : Byte) : Rising (memWrite a v s).ram := by
  rw [memWrite_ram]
  split_ifs
  · rw [memSet]
    split_ifs
    · exact eraseKey_rising _ h
    · exact insertKey_rising _ _ h
  · exact h

/-- The accesses of a store (R243 to R245). -/
theorem storeBus_storesOnly {s : State} (h : Rising s.ram) (l : Loc) (v : Byte) :
    StoresOnly (effAddr l s) v s (busRun (storeBus l v s) s) := by
  have hr := busRun_readsOnly (locReads_reads .write l s) s
  rw [storeBus, busRun_append]
  exact .after_reads hr (memWrite_storesOnly (hr.ram ▸ h) _ v)

/-- The accesses of a read-modify-write (46_shift_incdec.md). -/
theorem modifyBus_storesOnly {s : State} (h : Rising s.ram) (l : Loc) (v : Byte) :
    StoresOnly (effAddr l s) v s (busRun (modifyBus l v s) s) := by
  have hr := busRun_readsOnly (locReads_reads .write l s) s
  have hr2 := hr.trans (dummyRead_readsOnly (effAddr l s) _)
  have h2 : Rising (dummyRead (effAddr l s) (busRun (locReads .write l s) s)).ram := hr2.ram ▸ h
  rw [modifyBus, busRun_append]
  exact .after_reads hr2 ((memWrite_storesOnly h2 _ _).trans (memWrite_storesOnly (memWrite_rising h2 _ _) _ v))

/-! ## Pushes -/

theorem ReadsOnly.pushesOnly {s t : State} (h : ReadsOnly s t) : PushesOnly [] s t where
  toKept := h.toKept
  toPpuKept := h.toPpuKept
  pushed k hk := absurd hk (Nat.not_lt_zero k)
  ramKept a ha _ := h.bytes a (.inl ha)
  romKept a ha := h.bytes a (.inr ha)
  mapper := h.mapper
  strobe := h.strobe
  input := h.input

theorem PushesOnly.then_reads {s t u : State} {vs : List Byte} (h : PushesOnly vs s t) (k : ReadsOnly t u) :
    PushesOnly vs s u where
  toKept := h.toKept.trans k.toKept
  toPpuKept := h.toPpuKept.trans k.toPpuKept
  pushed j hj := by rw [k.bytes _ (.inl (stackByte_inRam s _)), h.pushed j hj]
  ramKept a ha hn := (k.bytes a (.inl ha)).trans (h.ramKept a ha hn)
  romKept a ha := (k.bytes a (.inr ha)).trans (h.romKept a ha)
  mapper := k.mapper.trans h.mapper
  strobe := k.strobe.trans h.strobe
  input := k.input.trans h.input

/-- Two stack bytes fewer than 256 apart are different bytes of RAM. -/
theorem stackByte_ne {s : State} {j k : Nat} (hj : j < k) (hk : k < 256) :
    ¬SameRamByte (stackByte s (-(j : Int))) (stackByte s (-(k : Int))) := by
  rw [SameRamByte, toNat_stackByte, toNat_stackByte]
  omega

/-- One more push. -/
theorem PushesOnly.snoc {s t : State} {vs : List Byte} (h : PushesOnly vs s t) (ht : Rising t.ram)
    (hl : vs.length < 256) (v : Byte) :
    PushesOnly (vs ++ [v]) s (memWrite (stackByte s (-(vs.length : Int))) v t) := by
  have hs := memWrite_storesOnly ht (stackByte s (-(vs.length : Int))) v
  have hi := stackByte_inRam s (-(vs.length : Int))
  have h1 : ¬InRom (stackByte s (-(vs.length : Int))) := by
    rw [InRam] at hi
    rw [InRom]
    omega
  have h2 : ¬(0x2000 ≤ (stackByte s (-(vs.length : Int))).toNat ∧ (stackByte s (-(vs.length : Int))).toNat < 0x4000) := by
    rw [InRam] at hi
    omega
  have h3 (c : Word) (hc : 0x2000 ≤ c.toNat) : stackByte s (-(vs.length : Int)) ≠ c := by
    rintro rfl
    exact absurd hi (Nat.not_lt.2 hc)
  have h4 := hs.controllerKept (h3 0x4016 (by decide))
  exact
    { toKept := h.toKept.trans hs.toKept
      toPpuKept := h.toPpuKept.trans (hs.ppuKept h2 (h3 0x4014 (by decide)))
      pushed := by
        intro k hk
        rw [List.length_append, List.length_singleton] at hk
        rcases Nat.lt_succ_iff_lt_or_eq.1 hk with hlt | rfl
        · rw [hs.ramKept _ (stackByte_inRam s _) (fun hc => stackByte_ne hlt hl hc.2), h.pushed k hlt,
            List.getElem?_append_left hlt]
        · rw [hs.stored _ hi hi rfl, List.getElem?_append_right (Nat.le_refl _), Nat.sub_self]
          rfl
      ramKept := by
        intro a ha hn
        rw [hs.ramKept a ha fun hc => hn vs.length (by simp) hc.2]
        exact h.ramKept a ha fun k hk => hn k (by simp; omega)
      romKept := fun a ha => (hs.romKept a ha h1).trans (h.romKept a ha)
      mapper := (hs.mapperKept h1).trans h.mapper
      strobe := h4.1.trans h.strobe
      input := h4.2.trans h.input }

theorem setCpu_pushesOnly {s t : State} {vs : List Byte} (h : PushesOnly vs s t) (c : Cpu) :
    PushesOnly vs s (t.setCpu c) where
  toKept := setCpu_kept h.toKept c
  toPpuKept := setCpu_ppuKept h.toPpuKept c
  pushed k hk := (congrArg some (setCpu_peek t c _)).trans (h.pushed k hk)
  ramKept a ha hn := (setCpu_peek t c a).trans (h.ramKept a ha hn)
  romKept a ha := (setCpu_peek t c a).trans (h.romKept a ha)
  mapper := h.mapper
  strobe := h.strobe
  input := h.input

/-- Reads, then one, two or three pushes, then reads. -/
theorem busRun_push_one {s : State} (h : Rising s.ram) {l m : List BusOp} (hl : AllReads l) (hm : AllReads m) (u : Byte) :
    PushesOnly [u] s (busRun (l ++ pushBus s [u] ++ m) s) := by
  have hr := busRun_readsOnly hl s
  have p1 := hr.pushesOnly.snoc (hr.ram ▸ h) (by simp) u
  rw [busRun_append, busRun_append]
  exact p1.then_reads (busRun_readsOnly hm _)

theorem busRun_push_two {s : State} (h : Rising s.ram) {l m : List BusOp} (hl : AllReads l) (hm : AllReads m)
    (u v : Byte) : PushesOnly [u, v] s (busRun (l ++ pushBus s [u, v] ++ m) s) := by
  have hr := busRun_readsOnly hl s
  have h1 : Rising (busRun l s).ram := hr.ram ▸ h
  have p1 := hr.pushesOnly.snoc h1 (by simp) u
  have p2 := p1.snoc (memWrite_rising h1 _ _) (by simp) v
  rw [busRun_append, busRun_append]
  exact p2.then_reads (busRun_readsOnly hm _)

theorem busRun_push_three {s : State} (h : Rising s.ram) {l m : List BusOp} (hl : AllReads l) (hm : AllReads m)
    (u v w : Byte) : PushesOnly [u, v, w] s (busRun (l ++ pushBus s [u, v, w] ++ m) s) := by
  have hr := busRun_readsOnly hl s
  have h1 : Rising (busRun l s).ram := hr.ram ▸ h
  have p1 := hr.pushesOnly.snoc h1 (by simp) u
  have h2 := memWrite_rising h1 (stackByte s (-(([] : List Byte).length : Int))) u
  have p2 := p1.snoc h2 (by simp) v
  have p3 := p2.snoc (memWrite_rising h2 _ _) (by simp) w
  rw [busRun_append, busRun_append]
  exact p3.then_reads (busRun_readsOnly hm _)

end Sys2Proof.Machine
end

