-- ==== Sys2Proof/Laws/Inv.lean ====
section
/-! SUPPORT. What each bus operation keeps of the invariant of Safety.lean. -/

namespace Sys2Proof.Machine

/-! ## The PPU -/

theorem nextPos_inv {p : Ppu} (h : p.Inv) : p.nextPos.Inv := by
  have hl := h.lineLt
  have hd := h.dotLt
  unfold Ppu.nextPos
  split_ifs with h1 h2
  · exact { h with lineLt := by simp, dotLt := by simp }
  · exact { h with lineLt := by show p.line + 1 < 262; omega, dotLt := by simp }
  · exact { h with dotLt := by show p.dot + 1 < 341; omega }

/-- A state that differs in the PPU only, its NMI line unchanged. -/
theorem Inv.setPpu {s : State} (h : Inv s) {p : Ppu} (hp : p.Inv) (hn : p.nmiLine = s.ppu.nmiLine) :
    Inv { s with ppu := p } :=
  { h with ppu := hp, nmiLine := h.nmiLine.trans hn.symm }

/-- `NmiLineEval()` makes the edge detector hold the level of the line (R441). -/
theorem nmiLineEval_inv {s : State} (h : Inv s) {p : Ppu} (hp : p.Inv) : Inv (nmiLineEval { s with ppu := p }) :=
  { h with ppu := hp, nmiLine := rfl }

theorem ppuFlagEvents_inv {s : State} (h : Inv s) : Inv (ppuFlagEvents s) := by
  unfold ppuFlagEvents
  split_ifs
  · exact { nmiLineEval_inv h (p := { s.ppu with nmiOccurred := true }) { h.ppu with } with }
  · exact nmiLineEval_inv h { h.ppu with }
  · exact h

theorem drawDot_inv {s : State} (h : Inv s) {x y : Nat} (hx : x < 256) (hy : y < 240) : Inv (drawDot s x y) := by
  refine h.setPpu { h.ppu with framebufferRising := ?_, framebufferRange := ?_ } rfl
  · exact insertKey_rising _ _ h.ppu.framebufferRising
  · intro q hq
    rcases mem_insertKey hq with rfl | hq
    · show 256 * y + x < _
      omega
    · exact h.ppu.framebufferRange q hq

theorem evalSprites_inv {p : Ppu} (h : p.Inv) (l : Nat) : (p.evalSprites l).Inv :=
  { h with
    secOamLen := by
      show ((((List.range 64).filter (p.qualifies l)).take 8).map p.oamEntry).length ≤ 8
      rw [List.length_map]
      exact List.length_take_le 8 _ }

theorem renderDot_inv {s : State} (h : Inv s) : Inv (renderDot s) := by
  have h1 : Inv (if s.ppu.line ≤ 239 ∧ 1 ≤ s.ppu.dot ∧ s.ppu.dot ≤ 256 then drawDot s (s.ppu.dot - 1) s.ppu.line else s) := by
    split_ifs with hc
    · exact drawDot_inv h (by omega) (by omega)
    · exact h
  unfold renderDot
  dsimp only
  split_ifs at h1 ⊢
  all_goals first
    | exact h1
    | exact h1.setPpu (evalSprites_inv h1.ppu _) rfl
    | exact h1.setPpu { h1.ppu with sprLen := by simpa using h1.ppu.secOamLen } rfl

theorem ppuAdvanceDot_inv {s : State} (h : Inv s) : Inv (ppuAdvanceDot s) := by
  have h1 : Inv (ppuFlagEvents { s with ppu := s.ppu.nextPos }) := by
    refine ppuFlagEvents_inv (h.setPpu (nextPos_inv h.ppu) ?_)
    unfold Ppu.nextPos
    split_ifs <;> rfl
  unfold ppuAdvanceDot
  dsimp only
  split_ifs
  · exact renderDot_inv h1
  · exact h1

/-! ## The APU -/

/-- The LFSR keeps at least one bit: the bit shifted out is fed back unless the other tap holds it (R495). -/
theorem nextLfsr_ne {n : Noise} (h : n.lfsr ≠ 0) : n.nextLfsr ≠ 0 := by
  intro hc
  apply h
  have hb (k : Nat) (hk : k < 15) : n.nextLfsr.getLsbD k = false := by rw [hc]; simp
  have shifted (k : Nat) (hk : k < 14) : n.lfsr.getLsbD (k + 1) = false := by
    have := hb k (by omega)
    rw [Noise.nextLfsr, BitVec.getLsbD_append, if_pos hk, BitVec.getLsbD_extractLsb'] at this
    simpa [hk, Nat.add_comm] using this
  have top := hb 14 (by decide)
  rw [Noise.nextLfsr, BitVec.getLsbD_append, if_neg (by decide), Nat.sub_self] at top
  have h6 := shifted 5 (by decide)
  have h1 := shifted 0 (by decide)
  have h0 : n.lfsr.getLsbD 0 = false := by
    cases hs : n.short <;> simp_all
  apply BitVec.eq_of_getLsbD_eq
  intro k hk
  have hz : BitVec.getLsbD (0 : BitVec 15) k = false := BitVec.getLsbD_zero
  rw [hz]
  rcases k with _ | k
  · exact h0
  · exact shifted k (by omega)

theorem frameStep_inv {a : Apu} (h : a.Inv) : a.frameStep.Inv := by
  have hf := h.fsLt
  have hn : a.noise.lfsr ≠ 0 := h.lfsrNe
  unfold Apu.frameStep
  cases hm : a.fiveStep <;> rw [hm] at hf <;> simp only [Bool.false_eq_true, if_false, if_true] at hf ⊢
  all_goals
    split_ifs
    all_goals
      constructor
      · simp [Apu.quarter, Apu.half]
        try omega
      · exact hn

theorem apu_clock_inv {a : Apu} (h : a.Inv) : a.clock.Inv := by
  unfold Apu.clock
  dsimp only
  refine frameStep_inv ?_
  split_ifs
  · constructor
    · exact h.fsLt
    · show a.noise.clockTimer.lfsr ≠ 0
      unfold Noise.clockTimer
      split_ifs
      · exact nextLfsr_ne h.lfsrNe
      · exact h.lfsrNe
  · exact ⟨h.fsLt, h.lfsrNe⟩

theorem apuAdvance_inv {s : State} (h : Inv s) : Inv (apuAdvance s) := by
  have hb := h.buffer
  have ha := apu_clock_inv h.apu
  have hbuf : s.apu.clock.buffer = s.apu.buffer := by
    unfold Apu.clock Apu.frameStep
    dsimp only
    split_ifs <;> rfl
  unfold apuAdvance sampleTimerAdvance
  dsimp only
  split_ifs with h1 h2
  · exact { h with apu := ⟨ha.fsLt, ha.lfsrNe⟩, buffer := fun hc => Nat.pos_of_ne_zero hc }
  · refine { h with apu := ⟨ha.fsLt, ha.lfsrNe⟩, buffer := fun hc => ?_ }
    rw [List.length_append, hbuf, List.length_singleton] at h2 ⊢
    have h3 := hb hc
    show s.apu.buffer.length + 1 < s.cfg.bufferCapacity
    have h4 : ¬s.apu.buffer.length + 1 = s.cfg.bufferCapacity := h2
    omega
  · exact { h with apu := ⟨ha.fsLt, ha.lfsrNe⟩, buffer := fun hc => by show List.length _ < _; rw [hbuf]; exact hb hc }

theorem tick_inv {s : State} (h : Inv s) : Inv (tick s) :=
  apuAdvance_inv (ppuAdvanceDot_inv (ppuAdvanceDot_inv (ppuAdvanceDot_inv { h with })))

theorem apu_write_inv {a : Apu} (h : a.Inv) (k : Nat) (v : Byte) : (a.write k v).Inv := by
  unfold Apu.write
  split_ifs
  · exact ⟨h.fsLt, h.lfsrNe⟩
  · exact ⟨h.fsLt, h.lfsrNe⟩
  · exact ⟨h.fsLt, h.lfsrNe⟩
  · refine ⟨h.fsLt, ?_⟩
    show (a.noise.write (k - 0x400C) v).lfsr ≠ 0
    unfold Noise.write
    split <;> exact h.lfsrNe
  · exact ⟨h.fsLt, h.lfsrNe⟩
  · unfold Apu.writeFrame
    dsimp only
    split_ifs
    all_goals
      refine ⟨?_, h.lfsrNe⟩
      show 0 < if v.getLsbD 7 then 37281 else 29829
      split_ifs
      decide
  · exact h

theorem apu_write_buffer (a : Apu) (k : Nat) (v : Byte) : (a.write k v).buffer = a.buffer := by
  unfold Apu.write Apu.writeFrame
  dsimp only
  split_ifs <;> rfl

/-! ## Reads -/

theorem drawByte_inv {s : State} (h : Inv s) : Inv (drawByte s).2 := { h with }

theorem ppuDataRead_inv {s : State} (h : Inv s) : Inv (ppuDataRead s).2 := by
  unfold ppuDataRead
  dsimp only
  split_ifs
  · exact h.setPpu { h.ppu with } rfl
  · exact h.setPpu { h.ppu with } rfl

theorem ppuRegRead_inv {s : State} (h : Inv s) (r : PpuReg) : Inv (ppuRegRead r s).2 := by
  cases r
  case status => exact nmiLineEval_inv (drawByte_inv h) { h.ppu with }
  case oamData => exact h
  case data => exact ppuDataRead_inv h
  all_goals exact drawByte_inv h

theorem busDecodeRead_inv {s : State} (h : Inv s) (a : Word) : Inv (busDecodeRead a s).2 := by
  unfold busDecodeRead
  dsimp only
  split_ifs
  · exact h
  · exact ppuRegRead_inv h _
  · exact drawByte_inv h
  · unfold controllerRead
    dsimp only
    split_ifs
    · exact h
    · exact { h with }
  · exact h
  · exact drawByte_inv h
  · unfold mapperRead
    split_ifs
    · exact drawByte_inv h
    · exact h

theorem memRead_inv {s : State} (h : Inv s) (a : Word) : Inv (memRead a s).2 := busDecodeRead_inv (tick_inv h) a

/-! ## Writes -/

theorem ntIndex_lt (s : State) {t : Nat} (ht : t < 4) : ntIndex s t < 2 := by
  unfold ntIndex
  split
  · split <;> omega
  · split <;> omega

theorem ntKey_lt (s : State) (a : Nat) : ntKey s a < 2048 := by
  have := ntIndex_lt s (t := a / 1024 % 4) (by omega)
  unfold ntKey
  omega

theorem palIndex_lt (a : Nat) : palIndex a < 32 := by
  unfold palIndex
  dsimp only
  split_ifs <;> omega

/-- A byte of a memory is what was there or the one written. -/
theorem mem_memSet {m : Mem} {k : Nat} {v : Byte} {q : Nat × Byte} (h : q ∈ memSet m k v) : q = (k, v) ∨ q ∈ m := by
  unfold memSet at h
  split_ifs at h
  · exact .inr (mem_eraseKey h)
  · exact mem_insertKey h

theorem ppuWrite_inv {s : State} (h : Inv s) (a : VAddr) (v : Byte) : Inv (ppuWrite a v s) := by
  have ha := a.isLt
  unfold ppuWrite
  dsimp only
  split_ifs
  · unfold chrWrite
    split_ifs
    · exact { h with chrRamWf := memSet_wf h.chrRamWf (by omega) v }
    · exact h
  · exact h.setPpu { h.ppu with nametableWf := memSet_wf h.ppu.nametableWf (ntKey_lt s _) v } rfl
  · refine h.setPpu { h.ppu with paletteWf := memSet_wf h.ppu.paletteWf (palIndex_lt _) _, paletteSix := ?_ } rfl
    intro q hq
    rcases mem_memSet hq with rfl | hq
    · show (v &&& 0x3F).toNat < 64
      rw [BitVec.toNat_and]
      exact Nat.lt_of_le_of_lt Nat.and_le_right (by decide)
    · exact h.ppu.paletteSix q hq

theorem ppuRegWrite_inv {s : State} (h : Inv s) (r : PpuReg) (v : Byte) : Inv (ppuRegWrite r v s) := by
  cases r
  case ctrl => exact nmiLineEval_inv h { h.ppu with }
  case mask => exact h.setPpu { h.ppu with } rfl
  case status => exact h
  case oamAddr => exact h.setPpu { h.ppu with } rfl
  case oamData => exact h.setPpu { h.ppu with oamWf := memSet_wf h.ppu.oamWf s.ppu.oamAddr.isLt v } rfl
  case scroll =>
    show Inv (ppuScrollWrite v s)
    unfold ppuScrollWrite
    split
    · exact h.setPpu { h.ppu with } rfl
    · exact h.setPpu { h.ppu with } rfl
  case addr =>
    show Inv (ppuAddrWrite v s)
    unfold ppuAddrWrite
    split
    · exact h.setPpu { h.ppu with } rfl
    · exact h.setPpu { h.ppu with } rfl
  case data =>
    have h1 := ppuWrite_inv h s.ppu.vramAddr v
    exact h1.setPpu { h1.ppu with } rfl

theorem mapper_write_inv {m : Mapper} (h : m.Inv) (a : Word) (v : Byte) : (m.write a v).Inv := by
  cases m
  case mmc1 m =>
    have hc : m.count < 5 := h
    show (m.write a v).count < 5
    unfold Mmc1.write
    dsimp only
    split_ifs
    · exact Nat.zero_lt_succ 4
    · split <;> exact Nat.zero_lt_succ 4
    · show m.count + 1 < 5
      omega
  all_goals trivial

theorem busStore_inv {s : State} (h : Inv s) (a : Word) (v : Byte) : Inv (busStore a v s) := by
  unfold busStore
  dsimp only
  split_ifs
  · exact { h with ramWf := memSet_wf h.ramWf (Nat.mod_lt _ (by decide)) v }
  · exact ppuRegWrite_inv h _ v
  · exact h
  · unfold controllerWrite sampleButtons
    dsimp only
    split_ifs
    · split
      · exact { h with }
      · exact { h with }
    · exact { h with }
  · exact { h with
      apu := apu_write_inv h.apu _ v
      buffer := fun hc => by rw [apu_write_buffer]; exact h.buffer hc }
  · exact h
  · unfold mapperWrite
    split_ifs
    · exact h
    · exact { h with mapper := mapper_write_inv h.mapper a v }

theorem oamDmaFrom_inv (page : Byte) (n i : Nat) {s : State} (h : Inv s) : Inv (oamDmaFrom page n i s) := by
  induction n generalizing i s with
  | zero => exact h
  | succ n ih => exact ih _ (busStore_inv (tick_inv (memRead_inv h _)) _ _)

theorem memWrite_inv {s : State} (h : Inv s) (a : Word) (v : Byte) : Inv (memWrite a v s) := by
  unfold memWrite busDecodeWrite
  split_ifs
  · exact oamDmaFrom_inv v 256 0 (tick_inv h)
  · exact busStore_inv (tick_inv h) a v

/-! ## Lists of accesses -/

theorem setCpu_inv {s : State} (h : Inv s) (c : Cpu) : Inv (s.setCpu c) := { h with }

/-- Any list of bus accesses keeps the invariant. -/
theorem busRun_inv (l : List BusOp) {s : State} (h : Inv s) : Inv (busRun l s) := by
  induction l generalizing s with
  | nil => exact h
  | cons o l ih =>
    cases o with
    | read a => exact ih (memRead_inv h a)
    | write a v => exact ih (memWrite_inv h a v)

end Sys2Proof.Machine
end

