-- ==== Sys2Proof/Laws/Isolation.lean ====
section
/-! SUPPORT. No bus operation lets the APU reach anything but itself and the audio port (R460). -/

namespace Sys2Proof.Machine

variable (s : State) (a : Apu) (p : AudioPort)

theorem SameButApu.refl : SameButApu s s := ⟨s.apu, s.audio, rfl⟩

theorem renderDot_withApu : renderDot (s.withApu a p) = (renderDot s).withApu a p := by
  unfold renderDot
  dsimp +instances only [State.withApu]
  split_ifs <;> rfl

theorem ppuFlagEvents_withApu : ppuFlagEvents (s.withApu a p) = (ppuFlagEvents s).withApu a p := by
  unfold ppuFlagEvents
  dsimp +instances only [State.withApu]
  split_ifs <;> rfl

theorem ppuAdvanceDot_withApu : ppuAdvanceDot (s.withApu a p) = (ppuAdvanceDot s).withApu a p := by
  have h : ppuFlagEvents { s.withApu a p with ppu := s.ppu.nextPos } =
      (ppuFlagEvents { s with ppu := s.ppu.nextPos }).withApu a p :=
    ppuFlagEvents_withApu { s with ppu := s.ppu.nextPos } a p
  have h2 : ppuAdvanceDot (s.withApu a p) =
      if ((ppuFlagEvents { s with ppu := s.ppu.nextPos }).withApu a p).ppu.renders then
        renderDot ((ppuFlagEvents { s with ppu := s.ppu.nextPos }).withApu a p)
      else (ppuFlagEvents { s with ppu := s.ppu.nextPos }).withApu a p := by
    rw [← h]
    rfl
  rw [h2, renderDot_withApu, ppuAdvanceDot]
  dsimp +instances only [State.withApu]
  split_ifs <;> rfl

/-- The APU's advance writes the APU and the audio port only. -/
theorem apuAdvance_same : SameButApu s (apuAdvance s) := by
  unfold apuAdvance sampleTimerAdvance
  dsimp only
  split_ifs <;> exact ⟨_, _, rfl⟩

variable {s} {t : State}

theorem tick_same (h : SameButApu s t) : SameButApu (tick s) (tick t) := by
  obtain ⟨a, p, rfl⟩ := h
  have e : tick (s.withApu a p) =
      apuAdvance (ppuAdvanceDot (ppuAdvanceDot (ppuAdvanceDot ({ s with cycles := s.cycles + 1 }.withApu a p)))) := rfl
  rw [e, ppuAdvanceDot_withApu, ppuAdvanceDot_withApu, ppuAdvanceDot_withApu, tick]
  generalize ppuAdvanceDot (ppuAdvanceDot (ppuAdvanceDot { s with cycles := s.cycles + 1 })) = u
  obtain ⟨b, q, hb⟩ := apuAdvance_same u
  obtain ⟨c, r, hc⟩ := apuAdvance_same (u.withApu a p)
  exact ⟨c, r, by rw [hc, hb]; rfl⟩

theorem ppuRegRead_withApu (r : PpuReg) (s : State) (a : Apu) (p : AudioPort) :
    ppuRegRead r (s.withApu a p) = ((ppuRegRead r s).1, (ppuRegRead r s).2.withApu a p) := by
  cases r <;> try rfl
  show ppuDataRead (s.withApu a p) = ((ppuDataRead s).1, (ppuDataRead s).2.withApu a p)
  unfold ppuDataRead
  dsimp +instances only [State.withApu]
  split_ifs <;> rfl

theorem controllerRead_withApu (s : State) (a : Apu) (p : AudioPort) :
    controllerRead (s.withApu a p) = ((controllerRead s).1, (controllerRead s).2.withApu a p) := by
  unfold controllerRead
  dsimp +instances only [State.withApu]
  split_ifs <;> rfl

theorem busDecodeRead_withApu (x : Word) (s : State) (a : Apu) (p : AudioPort) :
    busDecodeRead x (s.withApu a p) = ((busDecodeRead x s).1, (busDecodeRead x s).2.withApu a p) := by
  unfold busDecodeRead
  dsimp only
  split_ifs
  · rfl
  · exact ppuRegRead_withApu _ s a p
  · rfl
  · exact controllerRead_withApu s a p
  · rfl
  · rfl
  · unfold mapperRead
    split_ifs <;> rfl

/-- A read gives the same byte whatever the APU holds. -/
theorem memRead_same (x : Word) (h : SameButApu s t) :
    (memRead x t).1 = (memRead x s).1 ∧ SameButApu (memRead x s).2 (memRead x t).2 := by
  obtain ⟨a, p, he⟩ := tick_same h
  rw [memRead, memRead, he, busDecodeRead_withApu]
  exact ⟨rfl, a, p, rfl⟩

theorem ppuRegWrite_withApu (r : PpuReg) (v : Byte) (s : State) (a : Apu) (p : AudioPort) :
    ppuRegWrite r v (s.withApu a p) = (ppuRegWrite r v s).withApu a p := by
  cases r
  case scroll =>
    show ppuScrollWrite v (s.withApu a p) = (ppuScrollWrite v s).withApu a p
    unfold ppuScrollWrite
    dsimp only [State.withApu]
    split <;> rfl
  case addr =>
    show ppuAddrWrite v (s.withApu a p) = (ppuAddrWrite v s).withApu a p
    unfold ppuAddrWrite
    dsimp only [State.withApu]
    split <;> rfl
  case data =>
    show ppuDataWrite v (s.withApu a p) = (ppuDataWrite v s).withApu a p
    unfold ppuDataWrite ppuWrite chrWrite
    dsimp +instances only [State.withApu]
    split_ifs <;> rfl
  all_goals rfl

theorem controllerWrite_withApu (v : Byte) (s : State) (a : Apu) (p : AudioPort) :
    controllerWrite v (s.withApu a p) = (controllerWrite v s).withApu a p := by
  unfold controllerWrite sampleButtons
  dsimp only [State.withApu]
  split_ifs
  · split <;> rfl
  · rfl

theorem busStore_same (x : Word) (v : Byte) (h : SameButApu s t) : SameButApu (busStore x v s) (busStore x v t) := by
  obtain ⟨a, p, rfl⟩ := h
  unfold busStore
  dsimp only
  split_ifs
  · exact ⟨a, p, rfl⟩
  · exact ⟨a, p, ppuRegWrite_withApu _ v s a p⟩
  · exact ⟨a, p, rfl⟩
  · exact ⟨a, p, controllerWrite_withApu v s a p⟩
  · exact ⟨_, p, rfl⟩
  · exact ⟨a, p, rfl⟩
  · unfold mapperWrite
    split_ifs <;> exact ⟨a, p, rfl⟩

theorem oamDmaFrom_same (page : Byte) (n i : Nat) (h : SameButApu s t) :
    SameButApu (oamDmaFrom page n i s) (oamDmaFrom page n i t) := by
  induction n generalizing i s t with
  | zero => exact h
  | succ n ih =>
    obtain ⟨hv, hs⟩ := memRead_same (mkWord page (BitVec.ofNat 8 i)) h
    rw [oamDmaFrom, oamDmaFrom, hv]
    exact ih _ (busStore_same _ _ (tick_same hs))

/-- A write does the same to everything else whatever the APU holds. -/
theorem memWrite_same (x : Word) (v : Byte) (h : SameButApu s t) : SameButApu (memWrite x v s) (memWrite x v t) := by
  unfold memWrite busDecodeWrite
  split_ifs
  · exact oamDmaFrom_same v 256 0 (tick_same h)
  · exact busStore_same x v (tick_same h)

theorem SameButApu.cpu_eq (h : SameButApu s t) : t.cpu = s.cpu := by
  obtain ⟨a, p, rfl⟩ := h
  rfl

theorem setCpu_same (c : Cpu) (h : SameButApu s t) : SameButApu (s.setCpu c) (t.setCpu c) := by
  obtain ⟨a, p, rfl⟩ := h
  exact ⟨a, p, rfl⟩

/-- Any list of bus accesses. -/
theorem busRun_same (l : List BusOp) (h : SameButApu s t) : SameButApu (busRun l s) (busRun l t) := by
  induction l generalizing s t with
  | nil => exact h
  | cons o l ih =>
    cases o with
    | read x => exact ih (memRead_same x h).2
    | write x v => exact ih (memWrite_same x v h)

end Sys2Proof.Machine
end

