-- ==== Sys2Proof/Laws/Registers.lean ====
section
/-! SUPPORT. The bus at the PPU and APU registers (R65, R67, R68), and each step of the PPU's position (R440). -/

namespace Sys2Proof.Machine

theorem memWrite_ppuReg {a : Word} (h1 : 0x2000 ≤ a.toNat) (h2 : a.toNat < 0x4000) (v : Byte) (s : State) :
    memWrite a v s = ppuRegWrite (ppuRegOf a.toNat) v (tick s) := by
  have h : a ≠ 0x4014 := by
    rintro rfl
    exact absurd h2 (by decide)
  rw [memWrite, busDecodeWrite, if_neg h, busStore, if_neg (Nat.not_lt.2 h1), if_pos h2]

theorem memRead_ppuReg {a : Word} (h1 : 0x2000 ≤ a.toNat) (h2 : a.toNat < 0x4000) (s : State) :
    memRead a s = ppuRegRead (ppuRegOf a.toNat) (tick s) := by
  rw [memRead, busDecodeRead, if_neg (Nat.not_lt.2 h1), if_pos h2]

/-- A write to an APU register, after its tick, changes the APU alone (R68). -/
theorem memWrite_apuReg {a : Word} (h1 : 0x4000 ≤ a.toNat) (h2 : a.toNat < 0x4018) (h3 : a ≠ 0x4014) (h4 : a ≠ 0x4016)
    (v : Byte) (s : State) : memWrite a v s = { tick s with apu := (tick s).apu.write a.toNat v } := by
  have h3' : a.toNat ≠ 0x4014 := fun h => h3 (BitVec.eq_of_toNat_eq h)
  have h4' : a.toNat ≠ 0x4016 := fun h => h4 (BitVec.eq_of_toNat_eq h)
  rw [memWrite, busDecodeWrite, if_neg h3, busStore]
  dsimp only
  rw [if_neg (by omega), if_neg (by omega), if_neg h3', if_neg h4', if_pos h2]

theorem renderDot_position (s : State) : (renderDot s).ppu.line = s.ppu.line ∧ (renderDot s).ppu.dot = s.ppu.dot := by
  unfold renderDot
  dsimp only
  split_ifs <;> exact ⟨rfl, rfl⟩

theorem ppuFlagEvents_position (s : State) :
    (ppuFlagEvents s).ppu.line = s.ppu.line ∧ (ppuFlagEvents s).ppu.dot = s.ppu.dot := by
  unfold ppuFlagEvents
  split_ifs <;> exact ⟨rfl, rfl⟩

theorem ppuAdvanceDot_position (s : State) :
    (ppuAdvanceDot s).ppu.line = s.ppu.nextPos.line ∧ (ppuAdvanceDot s).ppu.dot = s.ppu.nextPos.dot := by
  unfold ppuAdvanceDot
  dsimp only
  split_ifs
  · rw [(renderDot_position _).1, (renderDot_position _).2]
    exact ppuFlagEvents_position _
  · exact ppuFlagEvents_position _

/-- One dot on, modulo the 89342 dots of a frame (R440). -/
theorem nextPos_dots {p : Ppu} (h1 : p.line < 262) (h2 : p.dot < 341) :
    p.nextPos.dotsIntoFrame = (p.dotsIntoFrame + 1) % 89342 ∧ p.nextPos.line < 262 ∧ p.nextPos.dot < 341 := by
  rw [Ppu.dotsIntoFrame, Ppu.dotsIntoFrame, Ppu.nextPos]
  by_cases h3 : p.dot + 1 = 341
  · by_cases h4 : p.line + 1 = 262
    · simp only [if_pos h3, if_pos h4]
      omega
    · simp only [if_pos h3, if_neg h4]
      omega
  · simp only [if_neg h3]
    omega

end Sys2Proof.Machine
end

