-- ==== Sys2Proof/Laws/Render.lean ====
section
/-! SUPPORT. The rendering operations in the numeric words of Safety.lean: the background pixel that the shift registers
shift out (60_exceptions.md R442), sprite shifters (R444), sprite pixels (R445), the sprite-zero hit (R446), and the
place an address of the PPU space leads to (R439). -/

namespace Sys2Proof.Machine

/-! ## Bits as numbers -/

theorem getLsbD_byteBit (v : Byte) (k : Nat) : v.getLsbD k = decide (byteBit v k = 1) := by
  simp only [byteBit, BitVec.getLsbD, Nat.testBit_eq_decide_div_mod_eq]
  exact decide_eq_decide.mpr Iff.rfl

theorem byteBit_lt (v : Byte) (k : Nat) : byteBit v k < 2 := Nat.mod_lt _ (by omega)

theorem toNat_getLsbD (v : Byte) (k : Nat) : (v.getLsbD k).toNat = byteBit v k := by
  have := byteBit_lt v k
  rw [getLsbD_byteBit]
  by_cases h : byteBit v k = 1 <;> simp [h]
  omega

theorem planeBits_eq_zero (lo hi : Byte) (c : Nat) :
    planeBits lo hi c = 0 ↔ byteBit lo (7 - c) + 2 * byteBit hi (7 - c) = 0 := by
  rw [← toNat_getLsbD, ← toNat_getLsbD, planeBits]
  cases lo.getLsbD (7 - c) <;> cases hi.getLsbD (7 - c) <;> decide

/-! ## The background shift registers -/

/-- The pattern bits shifted out at column `x` are those of column `cx mod 8` of the fetched row (R442). -/
theorem bgLoad_pattern (p : Ppu) (l : BgLatches) (x y : Nat) :
    (p.bgLoad l x y).pattern = planeBits l.low l.high (p.bgX x % 256 % 8) := by
  have hc : ¬ 7 < p.bgX x % 256 % 8 := by omega
  simp only [Ppu.bgLoad, BgShifters.pattern, planeBits, BitVec.getLsbD_shiftLeft, Nat.sub_zero, hc, decide_false,
    Bool.not_false, Bool.true_and, Nat.reduceLT, decide_true]

theorem eightOf_getLsbD {k : Nat} (h : k < 8) (b : Bool) : (eightOf b).getLsbD k = b := by
  obtain rfl | rfl | rfl | rfl | rfl | rfl | rfl | rfl :
    k = 0 ∨ k = 1 ∨ k = 2 ∨ k = 3 ∨ k = 4 ∨ k = 5 ∨ k = 6 ∨ k = 7 := by omega
  all_goals cases b <;> rfl

/-- The palette select shifted out at column `x` is that of the attribute byte (R442). -/
theorem bgLoad_palette (p : Ppu) (l : BgLatches) (x y : Nat) : (p.bgLoad l x y).palette = p.bgPal l x y := by
  have hc : ¬ 7 < p.bgX x % 256 % 8 := by omega
  simp only [Ppu.bgLoad, BgShifters.palette, planeBits, BitVec.getLsbD_shiftLeft, Nat.sub_zero, hc, decide_false,
    Bool.not_false, eightOf_getLsbD (show 7 - p.bgX x % 256 % 8 < 8 by omega)]
  generalize p.bgPal l x y = q
  revert q
  decide

/-- One shift leaves the registers ready for the tile's next column (R442). -/
theorem bgShifters_next_pattern (r : BgShifters) : r.next.pattern = planeBits r.patternLow r.patternHigh 1 := by
  simp [BgShifters.next, BgShifters.pattern, planeBits]

/-- The background pixel is transparent exactly when the index of R442 is 0. -/
theorem bgIdx_eq_zero (s : State) (x y : Nat) :
    s.ppu.bgIdx (s.ppu.bgLoad (bgFetch s x y) x y) x = 0 ↔ bgPixelIndex s x y = 0 := by
  have h1 := byteBit_lt s.ppu.mask 1
  have h3 := byteBit_lt s.ppu.mask 3
  have hb : s.ppu.bgShown x = true ↔ ¬(byteBit s.ppu.mask 3 = 0 ∨ (x < 8 ∧ byteBit s.ppu.mask 1 = 0)) := by
    simp only [Ppu.bgShown, getLsbD_byteBit, Bool.and_eq_true, decide_eq_true_eq, Bool.or_eq_true]
    omega
  rw [Ppu.bgIdx, bgLoad_pattern, bgPixelIndex]
  by_cases hs : s.ppu.bgShown x = true
  · rw [if_pos hs, if_neg (hb.1 hs), planeBits_eq_zero]
    simp only [bgFetch, Ppu.bgX, Ppu.bgY, toNat_getLsbD, Nat.mul_comm 4096]
  · rw [if_neg hs, if_pos (not_not.1 (mt hb.2 hs))]
    simp

/-! ## Sprites -/

theorem spriteHeight_eq (p : Ppu) : p.spriteHeight = spriteRows p := by
  simp only [Ppu.spriteHeight, spriteRows, getLsbD_byteBit, decide_eq_true_eq]

theorem qualifies_eq (p : Ppu) (l n : Nat) : p.qualifies l n = fitsLine p l n := by
  unfold Ppu.qualifies fitsLine
  rw [spriteHeight_eq]
  exact decide_eq_decide.mpr (by omega)

theorem fetchSlot_eq (s : State) (l : Nat) (e : SpriteEntry) : fetchSlot s l e = slotOf s l e := by
  have h2 : (e.tile &&& 0xFE).toNat = e.tile.toNat / 2 * 2 := by
    generalize e.tile = t
    revert t
    decide +kernel
  unfold fetchSlot slotOf Ppu.spriteAddr
  simp only [spriteHeight_eq, h2, toNat_getLsbD]
  simp only [getLsbD_byteBit, decide_eq_true_eq, Int.mul_comm 4096]
  push_cast
  rfl

/-- A slot shows a sprite pixel at column `x` exactly when the index of R445 is not 0. -/
theorem sprite_shows (p : Ppu) (sl : SpriteSlot) (x : Nat) :
    (p.sprShown x && sl.pixel x != 0) = decide (spritePixelIndex p sl x ≠ 0) := by
  have h4 := byteBit_lt p.mask 4
  have h2 := byteBit_lt p.mask 2
  rw [Bool.eq_iff_iff]
  simp only [Ppu.sprShown, SpriteSlot.pixel, spritePixelIndex, getLsbD_byteBit, Bool.and_eq_true, bne_iff_ne,
    decide_eq_true_eq, Bool.or_eq_true]
  by_cases hw : byteBit p.mask 4 = 0 ∨ (x < 8 ∧ byteBit p.mask 2 = 0) ∨ x < sl.xPos.toNat ∨ sl.xPos.toNat + 8 ≤ x
  · rw [if_pos hw]
    by_cases hx : sl.xPos.toNat ≤ x ∧ x - sl.xPos.toNat < 8
    · rw [if_pos hx]
      exact ⟨fun ⟨h, _⟩ => by omega, fun h => absurd rfl h⟩
    · rw [if_neg hx]
      simp
  · rw [if_neg hw, if_pos (by omega), ne_eq, planeBits_eq_zero]
    exact ⟨fun h => h.2, fun h => ⟨by omega, h⟩⟩

/-- The hit a drawn dot sets is that of R446. -/
theorem sprite0Hits_eq (s : State) (x y : Nat) :
    s.ppu.sprite0Hits x (s.ppu.bgIdx (s.ppu.bgLoad (bgFetch s x y) x y) x) = spriteZeroHitAt s x y := by
  have hb := bgIdx_eq_zero s x y
  generalize s.ppu.bgIdx (s.ppu.bgLoad (bgFetch s x y) x y) x = idx at hb
  unfold Ppu.sprite0Hits spriteZeroHitAt
  cases s.ppu.spr with
  | nil => simp
  | cons sl t =>
    have h5 := byteBit_lt sl.attr 5
    have hs := sprite_shows s.ppu sl x
    rw [Bool.eq_iff_iff] at hs ⊢
    simp only [List.head?_cons, Option.any_some, getLsbD_byteBit, Bool.and_eq_true, decide_eq_true_eq, bne_iff_ne, ne_eq,
      hb, Bool.not_eq_true', decide_eq_false_iff_not] at hs ⊢
    constructor
    · rintro ⟨⟨⟨⟨h, h1⟩, h2⟩, h3⟩, h4⟩
      exact ⟨h, hs.1 ⟨h1, h2⟩, h3, by omega⟩
    · rintro ⟨h, h1, h3, h4⟩
      exact ⟨⟨⟨⟨h, (hs.2 h1).1⟩, (hs.2 h1).2⟩, h3⟩, by omega⟩

/-- What the flag events leave of the PPU's sprite state and registers (R440). -/
theorem ppuFlagEvents_sprites (s : State) :
    let t := (ppuFlagEvents s).ppu
    t.mask = s.ppu.mask ∧ t.ctrl = s.ppu.ctrl ∧ t.oam = s.ppu.oam ∧ t.secOam = s.ppu.secOam ∧
      t.sprite0Present = s.ppu.sprite0Present ∧ t.spr = s.ppu.spr ∧ t.spr0OnLine = s.ppu.spr0OnLine := by
  unfold ppuFlagEvents
  split_ifs <;> exact ⟨rfl, rfl, rfl, rfl, rfl, rfl, rfl⟩

/-- At any other position there is no flag event (R440). -/
theorem ppuFlagEvents_none {s : State} (h : ¬(s.ppu.dot = 1 ∧ (s.ppu.line = 241 ∨ s.ppu.line = 261))) :
    ppuFlagEvents s = s := by
  unfold ppuFlagEvents
  rw [if_neg (fun e => h ⟨e.2, .inl e.1⟩), if_neg (fun e => h ⟨e.2, .inr e.1⟩)]

/-! ## The PPU space -/

theorem ntIndex_eq (s : State) (t : Nat) : ntIndex s t = tableShown s t := by
  unfold ntIndex tableShown
  cases s.mapper with
  | mmc1 m =>
    have h : (m.control.extractLsb' 0 2).toNat = m.control.toNat % 4 := by simp
    dsimp only
    rw [h]
    obtain h | h | h | h : m.control.toNat % 4 = 0 ∨ m.control.toNat % 4 = 1 ∨ m.control.toNat % 4 = 2 ∨
      m.control.toNat % 4 = 3 := by omega
    all_goals rw [h]; rfl
  | _ => cases s.cfg.mirroring <;> rfl

theorem palIndex_eq (k : Nat) : palIndex k = if k % 4 = 0 then k % 16 else k % 32 := by
  unfold palIndex
  dsimp only
  split <;> split <;> omega

/-- A read of the PPU space by the place its address leads to (R439). -/
theorem ppuRead_place (s : State) (a : VAddr) :
    ppuRead s a =
      if a.toNat < 0x2000 then chrRead s a.toNat
      else if a.toNat < 0x3F00 then memGet s.ppu.nametable (ppuPlace s a.toNat).2
      else memGet s.ppu.palette (ppuPlace s a.toNat).2 := by
  unfold ppuRead ppuPlace ntKey
  simp only [ntIndex_eq, palIndex_eq]
  split
  · rfl
  · split <;> rfl

/-- A write of the PPU space by the place its address leads to (R439). -/
theorem ppuWrite_place (s : State) (a : VAddr) (v : Byte) :
    ppuWrite a v s =
      if a.toNat < 0x2000 then chrWrite a.toNat v s
      else if a.toNat < 0x3F00 then
        { s with ppu.nametable := memSet s.ppu.nametable (ppuPlace s a.toNat).2 v }
      else { s with ppu.palette := memSet s.ppu.palette (ppuPlace s a.toNat).2 (v &&& 0x3F) } := by
  unfold ppuWrite ppuPlace ntKey
  simp only [ntIndex_eq, palIndex_eq]
  split
  · rfl
  · split <;> rfl

/-- A write of the PPU space moves no mirror (R439). -/
theorem ppuPlace_ppuWrite (s : State) (a : VAddr) (v : Byte) (k : Nat) : ppuPlace (ppuWrite a v s) k = ppuPlace s k := by
  unfold ppuWrite chrWrite
  dsimp only
  split_ifs <;> rfl

end Sys2Proof.Machine
end

