-- ==== Sys2Proof/Tests/Slice0.lean ====
section
/-! SUPPORT. The model's own tests: ill-formed terms, words of the spec, single steps, and a witness for the hypotheses
of each statement. Expected values are those of spec/95_test_vectors.md (the vector is named) or of the rule named. -/

namespace Sys2Proof.Tests

open Sys2Proof Sys2Proof.Machine

set_option Elab.async false

/-! ## Helpers -/

/-- A memory with bytes from address `k` up. -/
def bytesAt (k : Nat) (bs : List Byte) : Mem := bs.zipIdx.foldl (fun m p => memSet m (k + p.2) p.1) []

/-- The start state of 95_test_vectors.md: NROM, one PRG bank, `code` at `$8000`; BRK to `$9000`, NMI to `$A000`. -/
def start (code : List Byte) : State :=
  { State.reset with
    cfg.prg := memSet (memSet (bytesAt 0 code) 0x3FFB 0xA0) 0x3FFF 0x90
    cpu.pc := 0x8000 }

/-- The same with RAM bytes. -/
def startRam (code : List Byte) (ram : List (Nat × Byte)) : State :=
  { start code with ram := ram.foldl (fun m p => memSet m p.1 p.2) [] }

/-- The state after one step. -/
def after (s : State) : State :=
  match step s with
  | .next t => t
  | .fault _ => s
  | .refused _ => s

/-- One step ends with these registers and flags after this many ticks, with no fault. -/
def ends (s : State) (ticks : Nat) (c : Cpu) : Bool :=
  decide ((after s).cpu = c ∧ (after s).cycles = s.cycles + ticks ∧ (after s).fault = none)

/-- The same, with the byte of RAM at `k`. -/
def endsRam (s : State) (ticks : Nat) (c : Cpu) (k : Nat) (v : Byte) : Bool :=
  ends s ticks c && decide (memGet (after s).ram k = v)

/-- The registers of reset with every flag set. -/
def allFlags : Cpu := { Cpu.reset with n := true, v := true, d := true, i := true, z := true, c := true }

/-- The registers of reset with every flag clear. -/
def noFlags : Cpu := { Cpu.reset with i := false }

/-- The bytes decode to the instruction and nothing is left. -/
def reads (bs : List Byte) (i : Instr) : Bool :=
  match decode bs with
  | .ok (j, []) => decide (i = j) && i.wf && decide (encode i = bs)
  | _ => false

/-- An access at this PPU state. -/
def atPos (line dot : Nat) (ctrl : Byte) : State := { start [] with ppu.line := line, ppu.dot := dot, ppu.ctrl := ctrl }

/-- A cartridge of `n` PRG banks whose byte `k` of each listed place is given. -/
def banked (n : Nat) (m : Mapper) (prg : Mem) : State := 
  { start [] with mapper := m, cfg.prgBanks := n, cfg.prg := prg }

/-! ## Well-formedness: one ill-formed term for each check -/

theorem test_illformed_lda : Instr.wf (.lda (.mem (.zpy 0))) = false := by decide

theorem test_illformed_adc : Instr.wf (.adc (.mem (.zpy 0))) = false := by decide

theorem test_illformed_sbc : Instr.wf (.sbc (.mem (.zpy 0))) = false := by decide

theorem test_illformed_cmp : Instr.wf (.cmp (.mem (.zpy 0))) = false := by decide

theorem test_illformed_and : Instr.wf (.and (.mem (.zpy 0))) = false := by decide

theorem test_illformed_ora : Instr.wf (.ora (.mem (.zpy 0))) = false := by decide

theorem test_illformed_eor : Instr.wf (.eor (.mem (.zpy 0))) = false := by decide

theorem test_illformed_ldx : Instr.wf (.ldx (.mem (.abx 0))) = false := by decide

theorem test_illformed_ldy : Instr.wf (.ldy (.mem (.aby 0))) = false := by decide

theorem test_illformed_sta : Instr.wf (.sta (.zpy 0)) = false := by decide

theorem test_illformed_stx : Instr.wf (.stx (.zpx 0)) = false := by decide

theorem test_illformed_sty : Instr.wf (.sty (.zpy 0)) = false := by decide

theorem test_illformed_cpx : Instr.wf (.cpx (.mem (.zpx 0))) = false := by decide

theorem test_illformed_cpy : Instr.wf (.cpy (.mem (.abx 0))) = false := by decide

theorem test_illformed_bit : Instr.wf (.bit (.abx 0)) = false := by decide

theorem test_illformed_asl : Instr.wf (.asl (.mem (.izx 0))) = false := by decide

theorem test_illformed_lsr : Instr.wf (.lsr (.mem (.aby 0))) = false := by decide

theorem test_illformed_rol : Instr.wf (.rol (.mem (.zpy 0))) = false := by decide

theorem test_illformed_ror : Instr.wf (.ror (.mem (.izy 0))) = false := by decide

theorem test_illformed_inc : Instr.wf (.inc (.aby 0)) = false := by decide

theorem test_illformed_dec : Instr.wf (.dec (.izx 0)) = false := by decide

theorem test_illformed_nopImp : Instr.wf (.nopImp 0xEA) = false := by decide

theorem test_illformed_nopImm : Instr.wf (.nopImm 0x8A 0) = false := by decide

theorem test_illformed_nopZp : Instr.wf (.nopZp 0x24 0) = false := by decide

theorem test_illformed_nopZpx : Instr.wf (.nopZpx 0x94 0) = false := by decide

theorem test_illformed_nopAbx : Instr.wf (.nopAbx 0x9C 0) = false := by decide

theorem test_illformed_lax : Instr.wf (.lax (.abx 0)) = false := by decide

theorem test_illformed_undef : Instr.wf (.undef 0x00) = false := by decide

/-! ## Decoding: words written out bit by bit from the encodings of 30_encoding.md -/

/-- R107: single-byte operations. -/
theorem test_decode_flags :
    reads [0b00011000] .clc ∧ reads [0b00111000] .sec ∧ reads [0b01011000] .cli ∧ reads [0b01111000] .sei ∧
    reads [0b10111000] .clv ∧ reads [0b11011000] .cld ∧ reads [0b11111000] .sed := by decide +kernel

theorem test_decode_transfers :
    reads [0b10101010] .tax ∧ reads [0b10101000] .tay ∧ reads [0b10001010] .txa ∧ reads [0b10011000] .tya ∧
    reads [0b10111010] .tsx ∧ reads [0b10011010] .txs := by decide +kernel

theorem test_decode_stack :
    reads [0b01001000] .pha ∧ reads [0b00001000] .php ∧ reads [0b01101000] .pla ∧ reads [0b00101000] .plp := by
  decide +kernel

theorem test_decode_steps :
    reads [0b11101000] .inx ∧ reads [0b11001000] .iny ∧ reads [0b11001010] .dex ∧ reads [0b10001000] .dey ∧
    reads [0b11101010] .nop := by decide +kernel

/-- R106, R107: jumps, calls, returns. -/
theorem test_decode_jumps :
    reads [0b01001100, 0x34, 0x12] (.jmp 0x1234) ∧ reads [0b01101100, 0xFF, 0x02] (.jmpInd 0x02FF) ∧
    reads [0b00100000, 0x10, 0x80] (.jsr 0x10 0x80) ∧ reads [0b01100000] .rts ∧ reads [0b01000000] .rti ∧
    reads [0b00000000] .brk := by decide +kernel

/-- R103: `xxy10000`. -/
theorem test_decode_branches :
    reads [0b00010000, 0xFE] (.bpl 0xFE) ∧ reads [0b00110000, 0x7F] (.bmi 0x7F) ∧ reads [0b01010000, 1] (.bvc 1) ∧
    reads [0b01110000, 2] (.bvs 2) ∧ reads [0b10010000, 0xFB] (.bcc 0xFB) ∧ reads [0b10110000, 3] (.bcs 3) ∧
    reads [0b11010000, 2] (.bne 2) ∧ reads [0b11110000, 0x10] (.beq 0x10) := by decide +kernel

/-- R104: class 01, `aaabbb01`, every mode of LDA. -/
theorem test_decode_lda_modes :
    reads [0b10100001, 0x20] (.lda (.mem (.izx 0x20))) ∧ reads [0b10100101, 0x20] (.lda (.mem (.zp 0x20))) ∧
    reads [0b10101001, 0x20] (.lda (.imm 0x20)) ∧ reads [0b10101101, 0xCD, 0xAB] (.lda (.mem (.abs 0xABCD))) ∧
    reads [0b10110001, 0x20] (.lda (.mem (.izy 0x20))) ∧ reads [0b10110101, 0x20] (.lda (.mem (.zpx 0x20))) ∧
    reads [0b10111001, 0xCD, 0xAB] (.lda (.mem (.aby 0xABCD))) ∧
    reads [0b10111101, 0xCD, 0xAB] (.lda (.mem (.abx 0xABCD))) := by decide +kernel

/-- R104: class 01, the other operations. -/
theorem test_decode_class01 :
    reads [0b00001001, 0x80] (.ora (.imm 0x80)) ∧ reads [0b00101001, 0x0F] (.and (.imm 0x0F)) ∧
    reads [0b01001001, 0xFF] (.eor (.imm 0xFF)) ∧ reads [0b01101001, 0x10] (.adc (.imm 0x10)) ∧
    reads [0b10010001, 0x20] (.sta (.izy 0x20)) ∧ reads [0b11001001, 0x40] (.cmp (.imm 0x40)) ∧
    reads [0b11101001, 0xF0] (.sbc (.imm 0xF0)) := by decide +kernel

/-- R105: class 10, `aaabbb10`; LDX and STX are indexed by Y. -/
theorem test_decode_class10 :
    reads [0b00001010] (.asl .acc) ∧ reads [0b01000110, 0x10] (.lsr (.mem (.zp 0x10))) ∧
    reads [0b00111110, 0xFF, 0x02] (.rol (.mem (.abx 0x02FF))) ∧ reads [0b01101010] (.ror .acc) ∧
    reads [0b10010110, 0xFF] (.stx (.zpy 0xFF)) ∧ reads [0b10110110, 0xF0] (.ldx (.mem (.zpy 0xF0))) ∧
    reads [0b11001110, 0x00, 0x02] (.dec (.abs 0x0200)) ∧ reads [0b11110110, 0xFF] (.inc (.zpx 0xFF)) := by
  decide +kernel

/-- R106: class 00, `aaabbb00`. -/
theorem test_decode_class00 :
    reads [0b00100100, 0x10] (.bit (.zp 0x10)) ∧ reads [0b10010100, 0x10] (.sty (.zpx 0x10)) ∧
    reads [0b10111100, 0x80, 0x02] (.ldy (.mem (.abx 0x0280))) ∧ reads [0b11000100, 0x10] (.cpy (.mem (.zp 0x10))) ∧
    reads [0b11100000, 0xFF] (.cpx (.imm 0xFF)) := by decide +kernel

/-- R124 to R126: the unofficial bytes. -/
theorem test_decode_unofficial :
    reads [0b00011010] (.nopImp 0x1A) ∧ reads [0b10000000, 0xFF] (.nopImm 0x80 0xFF) ∧
    reads [0b00000100, 0x10] (.nopZp 0x04 0x10) ∧ reads [0b00010100, 0x10] (.nopZpx 0x14 0x10) ∧
    reads [0b00001100, 0xFF, 0x02] (.nopAbs 0x02FF) ∧ reads [0b00011100, 0xFF, 0x02] (.nopAbx 0x1C 0x02FF) ∧
    reads [0b10110011, 0x10] (.lax (.izy 0x10)) ∧ reads [0b10110111, 0x10] (.lax (.zpy 0x10)) ∧
    reads [0b00000010] (.undef 0x02) ∧ reads [0b11111111] (.undef 0xFF) := by decide +kernel

/-- The table's numbering: bit 0 is the least bit of the first byte; JMP `$1234`. -/
theorem test_decodeTableWord : decodeTableWord 24 0x12344C = some (.jmp 0x1234) := by decide +kernel

/-- A word is placed where the next step fetches it. -/
theorem test_withFetchWord : (after (State.reset.withFetchWord 16 0x05A9)).cpu.a = 0x05 := by decide +kernel

/-! ## One step -/

/-- R151. -/
theorem test_clc :
    ends { start [0x18] with cpu.c := true } 2
      { Cpu.reset with c := false, pc := 0x8001 } = true := by decide +kernel

/-- R152. -/
theorem test_sec : ends (start [0x38]) 2 { Cpu.reset with c := true, pc := 0x8001 } = true := by decide +kernel

/-- R153. -/
theorem test_cli : ends (start [0x58]) 2 { Cpu.reset with i := false, pc := 0x8001 } = true := by decide +kernel

/-- R154, T9. -/
theorem test_sei :
    ends { start [0x78] with cpu.i := false } 2
      { Cpu.reset with i := true, pc := 0x8001 } = true := by decide +kernel

/-- R155. -/
theorem test_clv :
    ends { start [0xB8] with cpu.v := true } 2
      { Cpu.reset with v := false, pc := 0x8001 } = true := by decide +kernel

/-- R156. -/
theorem test_cld :
    ends { start [0xD8] with cpu.d := true } 2
      { Cpu.reset with d := false, pc := 0x8001 } = true := by decide +kernel

/-- R157. -/
theorem test_sed : ends (start [0xF8]) 2 { Cpu.reset with d := true, pc := 0x8001 } = true := by decide +kernel

/-- R158. -/
theorem test_tax :
    ends { start [0xAA] with cpu.a := 0x80 } 2
      { Cpu.reset with a := 0x80, x := 0x80, n := true, pc := 0x8001 } = true := by decide +kernel

/-- R159. -/
theorem test_tay :
    ends { start [0xA8] with cpu.y := 0x55 } 2
      { Cpu.reset with y := 0x00, z := true, pc := 0x8001 } = true := by decide +kernel

/-- R160. -/
theorem test_txa :
    ends { start [0x8A] with cpu.x := 0x81 } 2
      { Cpu.reset with x := 0x81, a := 0x81, n := true, pc := 0x8001 } = true := by decide +kernel

/-- R161. -/
theorem test_tya :
    ends { start [0x98] with cpu.y := 0x01, cpu.z := true } 2
      { Cpu.reset with y := 0x01, z := false, a := 0x01, pc := 0x8001 } = true := by decide +kernel

/-- R162, T14. -/
theorem test_tsx :
    ends { start [0xBA] with cpu.sp := 0x80 } 2
      { Cpu.reset with sp := 0x80, x := 0x80, n := true, pc := 0x8001 } = true := by decide +kernel

/-- R163, T14: no flag. -/
theorem test_txs :
    ends { start [0x9A] with cpu.x := 0x00, cpu.n := true } 2
      { Cpu.reset with x := 0x00, n := true, sp := 0x00, pc := 0x8001 } = true := by decide +kernel

/-- R164, T15: SP wraps. -/
theorem test_pha :
    endsRam { start [0x48] with cpu.sp := 0x00, cpu.a := 0x77 } 3
      { Cpu.reset with sp := 0xFF, a := 0x77, pc := 0x8001 } 0x100 0x77 = true := by decide +kernel

/-- R165, T13. -/
theorem test_php :
    endsRam
      { start [0x08] with
        cpu.n := true, cpu.c := true, cpu.i := false }
      3 { Cpu.reset with n := true, c := true, i := false, sp := 0xFC, pc := 0x8001 } 0x1FD 0xB1 = true := by
  decide +kernel

/-- R166, T15: SP wraps. -/
theorem test_pla :
    ends { startRam [0x68] [(0x100, 0x80)] with cpu.sp := 0xFF } 4
      { Cpu.reset with sp := 0x00, a := 0x80, n := true, pc := 0x8001 } = true := by decide +kernel

/-- R167, T13. -/
theorem test_plp :
    ends { startRam [0x28] [(0x1FD, 0xFF)] with cpu.sp := 0xFC } 4
      { allFlags with sp := 0xFD, pc := 0x8001 } = true := by decide +kernel

/-- R167, T13. -/
theorem test_plp_clears :
    ends { start [0x28] with cpu := { allFlags with sp := 0xFC, pc := 0x8000 } } 4
      { noFlags with sp := 0xFD, pc := 0x8001 } = true := by decide +kernel

/-- R168: wraps. -/
theorem test_inx :
    ends { start [0xE8] with cpu.x := 0xFF } 2
      { Cpu.reset with x := 0x00, z := true, pc := 0x8001 } = true := by decide +kernel

/-- R169. -/
theorem test_iny :
    ends { start [0xC8] with cpu.y := 0x7F } 2
      { Cpu.reset with y := 0x80, n := true, pc := 0x8001 } = true := by decide +kernel

/-- R170: wraps. -/
theorem test_dex :
    ends { start [0xCA] with cpu.x := 0x00 } 2
      { Cpu.reset with x := 0xFF, n := true, pc := 0x8001 } = true := by decide +kernel

/-- R171. -/
theorem test_dey :
    ends { start [0x88] with cpu.y := 0x01 } 2
      { Cpu.reset with y := 0x00, z := true, pc := 0x8001 } = true := by decide +kernel

/-- R172. -/
theorem test_nop : ends (start [0xEA]) 2 { Cpu.reset with pc := 0x8001 } = true := by decide +kernel

/-- R200. -/
theorem test_jmp : ends (start [0x4C, 0x34, 0x12]) 3 { Cpu.reset with pc := 0x1234 } = true := by decide +kernel

/-- R201, T17: the pointer stays in its page. -/
theorem test_jmpInd :
    ends (startRam [0x6C, 0xFF, 0x02] [(0x2FF, 0x34), (0x200, 0x12), (0x300, 0x56)]) 5
      { Cpu.reset with pc := 0x1234 } = true := by decide +kernel

/-- R202, T16. -/
theorem test_jsr :
    endsRam (start [0x20, 0x10, 0x80]) 6
      { Cpu.reset with pc := 0x8010, sp := 0xFB } 0x1FC 0x02 = true := by decide +kernel

/-- R203, T16. -/
theorem test_rts :
    ends { startRam [0x60] [(0x1FC, 0x02), (0x1FD, 0x80)] with cpu.sp := 0xFB } 6
      { Cpu.reset with sp := 0xFD, pc := 0x8003 } = true := by decide +kernel

/-- R204, T18. -/
theorem test_rti :
    ends { startRam [0x40] [(0x1FB, 0xFF), (0x1FC, 0x34), (0x1FD, 0x12)] with cpu.sp := 0xFA } 6
      { allFlags with sp := 0xFD, pc := 0x1234 } = true := by decide +kernel

/-- R205, T19. -/
theorem test_brk :
    endsRam { start [0x00, 0xFF] with cpu.i := false, cpu.z := true } 7
      { Cpu.reset with i := true, z := true, sp := 0xFA, pc := 0x9000 } 0x1FB 0x32 = true := by decide +kernel

/-- R221, T22. -/
theorem test_bpl : ends (start [0x10, 0xFE]) 3 { Cpu.reset with pc := 0x8000 } = true := by decide +kernel

/-- R222: not taken. -/
theorem test_bmi : ends (start [0x30, 0x7F]) 2 { Cpu.reset with pc := 0x8002 } = true := by decide +kernel

/-- R223: not taken. -/
theorem test_bvc :
    ends { start [0x50, 0x10] with cpu.v := true } 2
      { Cpu.reset with v := true, pc := 0x8002 } = true := by decide +kernel

/-- R224. -/
theorem test_bvs :
    ends { start [0x70, 0x10] with cpu.v := true } 3
      { Cpu.reset with v := true, pc := 0x8012 } = true := by decide +kernel

/-- R225, T22 (one byte lower): into the page below. -/
theorem test_bcc : ends (start [0x90, 0xFB]) 4 { Cpu.reset with pc := 0x7FFD } = true := by decide +kernel

/-- R226. -/
theorem test_bcs :
    ends { start [0xB0, 0x7F] with cpu.c := true } 3
      { Cpu.reset with c := true, pc := 0x8081 } = true := by decide +kernel

/-- R227: not taken. -/
theorem test_bne :
    ends { start [0xD0, 0x02] with cpu.z := true } 2
      { Cpu.reset with z := true, pc := 0x8002 } = true := by decide +kernel

/-- R228, T22. -/
theorem test_beq :
    ends { start [0xF0, 0x10] with cpu.z := true } 3
      { Cpu.reset with z := true, pc := 0x8012 } = true := by decide +kernel

/-- R240, T23: a page cross. -/
theorem test_lda_abx :
    ends { start [0xBD, 0xF0, 0x02] with cpu.x := 0x20, cpu.a := 0x01 } 5
      { Cpu.reset with x := 0x20, a := 0x00, z := true, pc := 0x8003 } = true := by decide +kernel

/-- R240, T23: the pointer wraps in the zero page. -/
theorem test_lda_izx :
    ends { startRam [0xA1, 0xFE] [(0xFF, 0x34), (0x00, 0x12), (0x234, 0x99)] with cpu.x := 0x01 } 6
      { Cpu.reset with x := 0x01, a := 0x99, n := true, pc := 0x8002 } = true := by decide +kernel

/-- R241, T23. -/
theorem test_ldx :
    ends { startRam [0xB6, 0xF0] [(0x10, 0x33)] with cpu.y := 0x20 } 4
      { Cpu.reset with y := 0x20, x := 0x33, pc := 0x8002 } = true := by decide +kernel

/-- R242, T23. -/
theorem test_ldy :
    ends { startRam [0xBC, 0x80, 0x02] [(0x300, 0xF0)] with cpu.x := 0x80 } 5
      { Cpu.reset with x := 0x80, y := 0xF0, n := true, pc := 0x8003 } = true := by decide +kernel

/-- R243, T24: no page cross, the dummy read still. -/
theorem test_sta_abx :
    endsRam { start [0x9D, 0x00, 0x02] with cpu.x := 0x05, cpu.a := 0xAB } 5
      { Cpu.reset with x := 0x05, a := 0xAB, pc := 0x8003 } 0x205 0xAB = true := by decide +kernel

/-- R243, T24. -/
theorem test_sta_izy :
    endsRam { startRam [0x91, 0x20] [(0x20, 0x01), (0x21, 0x03)] with cpu.y := 0xFF, cpu.a := 0x01 } 6
      { Cpu.reset with y := 0xFF, a := 0x01, pc := 0x8002 } 0x400 0x01 = true := by decide +kernel

/-- R244, T24. -/
theorem test_stx :
    endsRam { start [0x96, 0xFF] with cpu.y := 0x02, cpu.x := 0x5A } 4
      { Cpu.reset with y := 0x02, x := 0x5A, pc := 0x8002 } 0x01 0x5A = true := by decide +kernel

/-- R245, T24. -/
theorem test_sty :
    endsRam { start [0x94, 0x10] with cpu.x := 0x01, cpu.y := 0x66 } 4
      { Cpu.reset with x := 0x01, y := 0x66, pc := 0x8002 } 0x11 0x66 = true := by decide +kernel

/-- R260, T5. -/
theorem test_adc :
    ends { start [0x69, 0x80] with cpu.a := 0x80 } 2
      { Cpu.reset with a := 0x00, z := true, c := true, v := true, pc := 0x8002 } = true := by decide +kernel

/-- R260, R265, T25: D has no effect. -/
theorem test_adc_decimal :
    ends { start [0x69, 0x09] with cpu.a := 0x09, cpu.d := true } 2
      { Cpu.reset with a := 0x12, d := true, pc := 0x8002 } = true := by decide +kernel

/-- R261, T25. -/
theorem test_sbc :
    ends { start [0xE9, 0xB0] with cpu.a := 0x50, cpu.c := true } 2
      { Cpu.reset with a := 0xA0, c := false, n := true, v := true, pc := 0x8002 } = true := by decide +kernel

/-- R261, T25. -/
theorem test_sbc_borrow :
    ends { start [0xE9, 0x00] with cpu.a := 0x00 } 2
      { Cpu.reset with a := 0xFF, n := true, pc := 0x8002 } = true := by decide +kernel

/-- R262, T26. -/
theorem test_cmp :
    ends { start [0xC9, 0x01] with cpu.a := 0x80, cpu.v := true } 2
      { Cpu.reset with a := 0x80, v := true, c := true, pc := 0x8002 } = true := by decide +kernel

/-- R263, T26. -/
theorem test_cpx :
    ends { start [0xE0, 0xFF] with cpu.x := 0x00, cpu.c := true } 2
      { Cpu.reset with x := 0x00, c := false, pc := 0x8002 } = true := by decide +kernel

/-- R264, T26. -/
theorem test_cpy :
    ends { startRam [0xC4, 0x10] [(0x10, 0x7F)] with cpu.y := 0xFF } 3
      { Cpu.reset with y := 0xFF, c := true, n := true, pc := 0x8002 } = true := by decide +kernel

/-- R280, T27. -/
theorem test_and :
    ends { start [0x29, 0x0F] with cpu.a := 0xF0 } 2
      { Cpu.reset with a := 0x00, z := true, pc := 0x8002 } = true := by decide +kernel

/-- R281, T27. -/
theorem test_ora :
    ends { start [0x09, 0x80] with cpu.a := 0x01 } 2
      { Cpu.reset with a := 0x81, n := true, pc := 0x8002 } = true := by decide +kernel

/-- R282, T27. -/
theorem test_eor :
    ends { start [0x49, 0xFF] with cpu.a := 0xFF } 2
      { Cpu.reset with a := 0x00, z := true, pc := 0x8002 } = true := by decide +kernel

/-- R283, T27. -/
theorem test_bit :
    ends { startRam [0x24, 0x10] [(0x10, 0xC0)] with cpu.a := 0x01 } 3
      { Cpu.reset with a := 0x01, z := true, n := true, v := true, pc := 0x8002 } = true := by decide +kernel

/-- R300, T28. -/
theorem test_asl :
    ends { start [0x0A] with cpu.a := 0x81 } 2
      { Cpu.reset with a := 0x02, c := true, pc := 0x8001 } = true := by decide +kernel

/-- R301, T28. -/
theorem test_lsr :
    endsRam (startRam [0x46, 0x10] [(0x10, 0x01)]) 5
      { Cpu.reset with c := true, z := true, pc := 0x8002 } 0x10 0x00 = true := by decide +kernel

/-- R302, T28. -/
theorem test_rol :
    endsRam { startRam [0x3E, 0xFF, 0x02] [(0x300, 0x80)] with cpu.x := 0x01, cpu.c := true } 7
      { Cpu.reset with x := 0x01, c := true, pc := 0x8003 } 0x300 0x01 = true := by decide +kernel

/-- R303, T28. -/
theorem test_ror :
    ends { start [0x6A] with cpu.a := 0x01, cpu.c := true } 2
      { Cpu.reset with a := 0x80, c := true, n := true, pc := 0x8001 } = true := by decide +kernel

/-- R304, T28. -/
theorem test_inc :
    endsRam { startRam [0xF6, 0xFF] [(0x00, 0xFF)] with cpu.x := 0x01, cpu.c := true } 6
      { Cpu.reset with x := 0x01, c := true, z := true, pc := 0x8002 } 0x00 0x00 = true := by decide +kernel

/-- R305, T28. -/
theorem test_dec :
    endsRam (start [0xCE, 0x00, 0x02]) 6
      { Cpu.reset with n := true, pc := 0x8003 } 0x200 0xFF = true := by decide +kernel

/-- R330. -/
theorem test_nopImp : ends (start [0x1A]) 2 { Cpu.reset with pc := 0x8001 } = true := by decide +kernel

/-- R331, T29. -/
theorem test_nopImm : ends (start [0x80, 0xFF]) 2 { Cpu.reset with pc := 0x8002 } = true := by decide +kernel

/-- R332. -/
theorem test_nopZp : ends (start [0x04, 0x10]) 3 { Cpu.reset with pc := 0x8002 } = true := by decide +kernel

/-- R333, T29. -/
theorem test_nopZpx :
    ends { start [0x14, 0x10] with cpu.x := 0x01 } 4
      { Cpu.reset with x := 0x01, pc := 0x8002 } = true := by decide +kernel

/-- R334. -/
theorem test_nopAbs : ends (start [0x0C, 0xFF, 0x02]) 4 { Cpu.reset with pc := 0x8003 } = true := by decide +kernel

/-- R335, T29: a page cross. -/
theorem test_nopAbx :
    ends { start [0x1C, 0xFF, 0x02] with cpu.x := 0x01 } 5
      { Cpu.reset with x := 0x01, pc := 0x8003 } = true := by decide +kernel

/-- R336, T29. -/
theorem test_lax :
    ends { startRam [0xB3, 0x10] [(0x10, 0xFF), (0x11, 0x02), (0x300, 0x80)] with cpu.y := 0x01 } 6
      { Cpu.reset with y := 0x01, a := 0x80, x := 0x80, n := true, pc := 0x8002 } = true := by decide +kernel

/-- R337, T29: no NMI check, one tick, and later steps change nothing. -/
theorem test_undef :
    let s := { start [0x02] with nmiQueued := true }
    (after s).fault = some (.unimplementedOpcode 0x02 0x8000) ∧ (after s).cycles = 1 ∧ (after s).cpu.pc = 0x8001 ∧
      (after s).nmiQueued = true ∧ after (after s) = after s := by decide +kernel

/-- R227, T6: the target wraps. -/
theorem test_bne_wraps :
    let s := { start [] with
      cfg.prg := memSet (memSet [] 0x3FFE 0xD0) 0x3FFF 0x02
      cpu.pc := 0xFFFE }
    (after s).cpu.pc = 0x0002 ∧ (after s).cycles = 3 := by decide +kernel

/-- R415, R416, T20: the NMI service after a NOP. -/
theorem test_nmi :
    endsRam { start [0xEA] with nmiQueued := true, cpu.i := false, cpu.c := true } 9
      { Cpu.reset with c := true, i := true, sp := 0xFA, pc := 0xA000 } 0x1FB 0x21 = true := by decide +kernel

/-- R419, T21: an NMI queued while BRK executes. -/
theorem test_nmi_after_brk :
    endsRam { start [0x00, 0xFF] with nmiQueued := true, cpu.i := false } 14
      { Cpu.reset with i := true, sp := 0xF7, pc := 0xA000 } 0x1F8 0x24 = true := by decide +kernel

/-! ## Devices -/

/-- R440, R441, T10: the flag sets at (241, 1) and queues an NMI; a status read clears the flag only. -/
theorem test_vblank :
    let s := ppuAdvanceDot (ppuAdvanceDot (atPos 240 340 0x80))
    let r := ppuStatusRead s
    s.ppu.line = 241 ∧ s.ppu.dot = 1 ∧ s.ppu.nmiOccurred = true ∧ s.nmiQueued = true ∧
      r.2.ppu.nmiOccurred = false ∧ r.2.nmiLinePrev = false ∧ r.2.nmiQueued = true := by decide +kernel

/-- T10, variant: enabling NMI while the flag is set queues one. -/
theorem test_nmi_enable :
    let s := ppuAdvanceDot (ppuAdvanceDot (atPos 240 340 0x00))
    s.nmiQueued = false ∧ (memWrite 0x2000 0x80 s).nmiQueued = true := by decide +kernel

/-- R66, T33. -/
theorem test_mirror :
    let s := memWrite 0x0800 0x5A (startRam [] [(0x7FF, 0x77)])
    (memRead 0x1000 s).1 = 0x5A ∧ (memRead 0x1FFF s).1 = 0x77 := by decide +kernel

/-- R471, R473, T7: bank 5 of 4 is bank 1; the last bank is fixed. -/
theorem test_uxrom :
    let s := memWrite 0x8000 0x05 (banked 4 (.uxrom 0) [(0x4000, 0x11), (0x7FFF, 0x22), (0xC000, 0x33), (0xFFFF, 0x44)])
    (memRead 0x8000 s).1 = 0x11 ∧ (memRead 0xBFFF s).1 = 0x22 ∧ (memRead 0xC000 s).1 = 0x33 ∧
      (memRead 0xFFFF s).1 = 0x44 := by decide +kernel

/-- R476, T8: five writes commit, a sixth with bit 7 set resets. -/
theorem test_mmc1 :
    let s := busRun ([0x01, 0x00, 0x01, 0x00, 0x00, 0x80].map (BusOp.write 0xE000))
      (banked 4 (.mmc1 ⟨0, 0, 0x0C, 0, 0, 0⟩) [])
    s.mapper = .mmc1 ⟨0, 0, 0x0C, 0, 0, 5⟩ := by decide +kernel

/-- R476, T35: both writes of an INC reach the mapper. -/
theorem test_mmc1_inc :
    let s := { start [0xEE, 0x00, 0xE0] with mapper := .mmc1 ⟨0, 0, 0x00, 0, 0, 0⟩, cfg.prgBanks := 2 }
    (after s).mapper = .mmc1 ⟨2, 2, 0x00, 0, 0, 0⟩ ∧ (after s).cycles = 6 := by decide +kernel

/-- R480, T30: the serial protocol. -/
theorem test_controller :
    let s := busRun [.write 0x4016 1, .read 0x4016, .write 0x4016 0] { start [] with input := [0x09] }
    let bit (k : Nat) : Byte := (memRead 0x4016 (busRun (List.replicate k (.read 0x4016)) s)).1
    (List.range 10).map bit = [1, 0, 0, 1, 0, 0, 0, 0, 1, 1] := by decide +kernel

/-- R116, R433, T31: the dummy read of a page cross is a PPUSTATUS read. -/
theorem test_dummy_read_effect :
    let s := { start [0xBD, 0xF2, 0x20] with
      cpu.x := 0x10
      ppu.nmiOccurred := true
      ppu.addrLatch := .second }
    (after s).cycles = 5 ∧ (after s).ppu.nmiOccurred = false ∧ (after s).ppu.addrLatch = .first := by decide +kernel

/-- R440, R621, T36: tick 27394 sets the vblank flag in its third dot; here from its first. -/
theorem test_first_vblank :
    let s := atPos 240 339 0x00
    (tick s).ppu.nmiOccurred = true ∧ (tick s).ppu.dot = 1 := by decide +kernel

/-- R469, T12: one flush, at the fourth sample. -/
theorem test_audio_flush :
    let s := { start [] with cfg.bufferCapacity := 4, cfg.sampleRate := 1, cfg.cpuClock := 3 }
    let run (k : Nat) : State := (List.range k).foldl (fun t _ => apuAdvance t) s
    (run 11).audio.flushes = 0 ∧ (run 12).audio.flushes = 1 := by decide +kernel

/-- R600, T34. -/
theorem test_reset :
    (hostReset { start [0xEA] with cfg.prg := [(0x3FFC, 0x34), (0x3FFD, 0xC2)], cpu.a := 0x12, cycles := 9 }).cpu =
      { Cpu.reset with pc := 0xC234 } := by decide +kernel

/-- R446, T11: both pixels opaque sets the sprite-zero hit; behind an opaque background it does not. -/
theorem test_sprite0 :
    let p := { (start []).ppu with
      mask := 0x1E
      spr := [⟨0xFF, 0xFF, 0x10, 0x00⟩]
      spr0OnLine := true }
    p.sprite0Hits 16 3 = true ∧ p.sprite0Hits 15 3 = false ∧ p.sprite0Hits 16 0 = false ∧
      { p with spr := [⟨0xFF, 0xFF, 0x10, 0x20⟩] }.sprite0Hits 16 3 = false := by decide +kernel
/-! ## Witnesses: the hypotheses of each statement that has some, met together -/

/-- A state with something in RAM and OAM, the flag events and an NMI near, MMC1 in the slot. -/
def busy : State :=
  { startRam [0x85, 0x10] [(0x1FD, 0x12), (0x1FE, 0x34)] with
    ppu.oam := [(0, 5), (255, 9)]
    ppu.nametable := [(2047, 1)]
    ppu.palette := [(31, 0x3F)]
    ppu.line := 261
    ppu.dot := 340
    mapper := .mmc1 ⟨0, 0, 0x0C, 0, 0, 0⟩ }

theorem busy_inv : Inv busy where
  ramWf := by decide
  chrRamWf := nil_wf _
  ppu :=
    { lineLt := by decide
      dotLt := by decide
      secOamLen := by decide
      sprLen := by decide
      oamWf := by decide
      nametableWf := by decide
      paletteWf := by decide
      paletteSix := by decide
      framebufferRising := List.Pairwise.nil
      framebufferRange := by intro q hq; cases hq }
  apu := ⟨by decide, by decide⟩
  mapper := by show 0 < 5; decide
  nmiLine := rfl
  buffer := by intro _; decide

theorem witness_EncodeThenDecode :
    Instr.wf (.lda (.mem (.izy 0xFF))) = true ∧ Instr.wf (.undef 0xFF) = true ∧ Instr.wf (.jsr 0xFF 0xFF) = true := by
  decide

theorem witness_DecodeThenEncode : decode [0x4C, 0x34, 0x12, 0xEA] = .ok (.jmp 0x1234, [0xEA]) := rfl

/-- JMP at `$07FE`, its last byte at the mirror `$0800` of RAM byte 0. -/
theorem witness_StepRunsDecodedInstruction :
    let s := { startRam [] [(0x7FE, 0x4C), (0x7FF, 0x34), (0, 0x12)] with cpu.pc := 0x07FE }
    s.fault = none ∧ Instr.wf (.jmp 0x1234) = true ∧
    ∀ k, k < (encode (.jmp 0x1234)).length →
      Plain (s.cpu.pc + BitVec.ofNat 16 k) ∧ some (peek s (s.cpu.pc + BitVec.ofNat 16 k)) = (encode (.jmp 0x1234))[k]? := by
  refine ⟨rfl, rfl, fun k hk => ?_⟩
  have hk : k < 3 := hk
  obtain rfl | rfl | rfl : k = 0 ∨ k = 1 ∨ k = 2 := by omega
  · exact ⟨.inl (by show (0x07FE : Word).toNat < 0x2000; decide), by decide +kernel⟩
  · exact ⟨.inl (by show (0x07FF : Word).toNat < 0x2000; decide), by decide +kernel⟩
  · exact ⟨.inl (by show (0x0800 : Word).toNat < 0x2000; decide), by decide +kernel⟩

theorem witness_FaultOnlyFromUndefinedOpcode :
    (start [0x02]).fault = none ∧ (fetch (start [0x02])).1 ∈ undefBytes ∧
      (start [0xEA]).fault = none ∧ (fetch (start [0xEA])).1 ∉ undefBytes := by decide +kernel

theorem witness_UndefinedOpcodeSetsFault : (0x02 : Byte) ∈ undefBytes ∧ (0xFF : Byte) ∈ undefBytes := by decide

theorem witness_EveryInstructionCompletes : (after (start [0x02])).fault ≠ none ∧ Instr.tax ≠ .undef 0x02 := by
  decide +kernel

/-- The three bytes a step may fetch. -/
def fetched (s : State) : List Byte := [(fetch s).1, (fetch (fetch s).2).1, (fetch (fetch (fetch s).2).2).1]

/-- A load across a page, a taken branch across a page, a store that starts OAM DMA. -/
theorem witness_StepTicksFollowTable :
    let decodes (s : State) (i : Instr) : Prop := s.fault = none ∧ ∃ rest, decode (fetched s) = .ok (i, rest)
    decodes { start [0xBD, 0xF0, 0x02] with cpu.x := 0x20 } (.lda (.mem (.abx 0x02F0))) ∧
    decodes (start [0x90, 0xFB]) (.bcc 0xFB) ∧ decodes (start [0x8D, 0x14, 0x40]) (.sta (.abs 0x4014)) := by
  have h1 : fetched { start [0xBD, 0xF0, 0x02] with cpu.x := 0x20 } = [0xBD, 0xF0, 0x02] := by decide +kernel
  have h2 : fetched (start [0x90, 0xFB]) = [0x90, 0xFB, 0x00] := by decide +kernel
  have h3 : fetched (start [0x8D, 0x14, 0x40]) = [0x8D, 0x14, 0x40] := by decide +kernel
  exact ⟨⟨rfl, [], by rw [h1]; rfl⟩, ⟨rfl, [0], by rw [h2]; rfl⟩, ⟨rfl, [], by rw [h3]; rfl⟩⟩

theorem witness_StepKeepsInvariant : Inv busy ∧ ∃ t, step busy = .next t := ⟨busy_inv, _, rfl⟩

theorem witness_ConfigurationNeverChanges : ∃ t, step (start [0xEA]) = .next t := ⟨_, rfl⟩

theorem witness_QueuedNmiStaysQueued :
    ∃ s t, s.nmiQueued = true ∧ exec .nop s = .next t := ⟨{ start [] with nmiQueued := true }, _, rfl, rfl⟩

theorem witness_ApuInvisibleToCpu : SameButApu (start []) ((start []).withApu { Apu.reset with cyc := 7 } ⟨3, []⟩) :=
  ⟨_, _, rfl⟩

theorem witness_OperandNops :
    (0x80 : Byte) ∈ nopImmBytes ∧ (0x64 : Byte) ∈ nopZpBytes ∧ (0xF4 : Byte) ∈ nopZpxBytes ∧
      (0xFC : Byte) ∈ nopAbxBytes := by decide

/-- For every statement whose premise is canonical RAM: pushes, pulls, calls, interrupts, stores, shifts. -/
theorem witness_canonicalRam : Memory.wf 2048 busy.ram ∧ busy.ram ≠ [] := by decide

theorem plain_ram {a : Word} (h : a.toNat < 0x2000) : Plain a := .inl h

/-- The pointer at a page end. -/
theorem witness_JmpInstructions : Plain 0x02FF ∧ Plain (pointerHigh 0x02FF) ∧ pointerHigh 0x02FF = 0x0200 :=
  ⟨plain_ram (by decide), plain_ram (by decide), by decide⟩

/-- The third byte just above the two pushed bytes. -/
theorem witness_JsrPushesAndJumps :
    let s := { start [] with cpu.pc := 0x01FE }
    Plain s.cpu.pc ∧ ¬(InRam s.cpu.pc ∧ ∃ k : Nat, k < 2 ∧ SameRamByte s.cpu.pc (stackByte s (-(k : Int)))) := by
  refine ⟨plain_ram (by decide), ?_⟩
  rintro ⟨-, k, hk, hc⟩
  obtain rfl | rfl : k = 0 ∨ k = 1 := by omega
  all_goals exact absurd hc (by unfold SameRamByte; decide)

theorem witness_NmiServiceEntry :
    (start []).fault = none ∧ (start []).nmiQueued = false ∧ { start [] with nmiQueued := true }.nmiQueued = true :=
  ⟨rfl, rfl, rfl⟩

theorem witness_OperandInPlainMemory :
    Plain (effAddr (.abx 0xFFFF) { start [] with cpu.x := 1 }) ∧ Plain (effAddr (.zpx 0xFF) { start [] with cpu.x := 1 }) :=
  ⟨plain_ram (by decide), plain_ram (by decide)⟩

theorem witness_EveryAccessTicks : busy.ppu.line < 262 ∧ busy.ppu.dot < 341 := by decide

theorem witness_RamIsMirrored :
    Memory.wf 2048 busy.ram ∧ InRam 0x07FF ∧ InRam 0x1FFF ∧ (0x1FFF : Word).toNat % 0x800 = (0x07FF : Word).toNat % 0x800 :=
  ⟨by decide, by show (0x07FF : Word).toNat < 0x2000; decide, by show (0x1FFF : Word).toNat < 0x2000; decide, by decide⟩

/-- The edges of each clause: `$4000`, `$4013`, `$4017`, `$4014`, `$4018`, `$7FFF`. -/
theorem witness_UnreadableAddresses :
    (∀ a ∈ [(0x4000 : Word), 0x4013, 0x4017], 0x4000 ≤ a.toNat ∧ a ≠ 0x4016 ∧ a.toNat < 0x4018 ∧ a ≠ 0x4014) ∧
    (∀ a ∈ [(0x4014 : Word), 0x4018, 0x7FFF], a.toNat < 0x8000 ∧ a ≠ 0x4016 ∧ (a = 0x4014 ∨ 0x4018 ≤ a.toNat)) := by
  constructor
  all_goals
    intro a ha
    fin_cases ha <;> decide

/-- The last mirror of each register, for PpuRegisterWrites, TwoWriteRegisters, PpuStatusReadClears, PpuDataAccess. -/
theorem witness_ppuRegisters :
    Memory.wf 256 busy.ppu.oam ∧
    ∀ p ∈ [(0x3FF8 : Word), 0x3FF9, 0x3FFA, 0x3FFB, 0x3FFC, 0x3FFD, 0x3FFE, 0x3FFF].zipIdx,
      0x2000 ≤ p.1.toNat ∧ p.1.toNat < 0x4000 ∧ p.1.toNat % 8 = p.2 := by decide

theorem witness_TwoWriteRegisters :
    (start []).ppu.scrollLatch = .first ∧ (memWrite 0x2005 0 (start [])).ppu.scrollLatch = .second ∧
      (start []).ppu.addrLatch = .first ∧ (memWrite 0x2006 0 (start [])).ppu.addrLatch = .second := by decide +kernel

/-- The last address below the palette and the first of it. -/
theorem witness_PpuDataAccess :
    { start [] with ppu.vramAddr := 0x3EFF }.ppu.vramAddr.toNat < 0x3F00 ∧
      0x3F00 ≤ { start [] with ppu.vramAddr := 0x3F00 }.ppu.vramAddr.toNat := by decide

/-- Each clause at an edge of its range; two mirrors, two addresses that are none; the two cases of CHR memory. -/
theorem witness_PpuSpaceReadBack :
    Inv busy ∧ (0x2000 ≤ (0x3EFF : VAddr).toNat ∧ (0x3EFF : VAddr).toNat < 0x3F00) ∧
    (ppuPlace busy 0x3EFF = ppuPlace busy 0x2EFF ∧ ppuPlace busy 0x3EFF ≠ ppuPlace busy 0x3EFE) ∧
    (ppuPlace busy 0x3F10 = ppuPlace busy 0x3FE0 ∧ ppuPlace busy 0x3F11 ≠ ppuPlace busy 0x3F01) ∧
    (0x2000 ≤ (0x2EFF : VAddr).toNat ∧ (0x2EFF : VAddr).toNat < 0x2F00) ∧ 0x3F00 ≤ (0x3FFF : VAddr).toNat ∧
    (0x3F00 ≤ (0x3F00 : VAddr).toNat ∧ 0x3F00 ≤ (0x3F10 : VAddr).toNat ∧
      (0x3F00 : VAddr).toNat % 16 = (0x3F10 : VAddr).toNat % 16 ∧ (0x3F00 : VAddr).toNat % 4 = 0) ∧
    ((0x1FFF : VAddr).toNat < 0x2000 ∧ busy.cfg.chrBanks = 0) ∧ { busy with cfg.chrBanks := 1 }.cfg.chrBanks ≠ 0 :=
  ⟨busy_inv, by decide, by decide, by decide, by decide, by decide, by decide, by decide, by decide⟩

/-- CHR-ROM in the slot. -/
theorem witness_PpuSpaceReadBack_rom : Inv { busy with cfg.chrBanks := 1 } := { busy_inv with }

theorem witness_VblankFlagAndNmiEdge :
    ((atPos 241 0 0x80).ppu.line = 241 ∧ (atPos 241 0 0x80).ppu.dot = 0) ∧
    ((atPos 261 0 0x80).ppu.line = 261 ∧ (atPos 261 0 0x80).ppu.dot = 0) ∧
    ¬((atPos 240 340 0x80).ppu.dot = 0 ∧
      ((atPos 240 340 0x80).ppu.line = 241 ∨ (atPos 240 340 0x80).ppu.line = 261)) := by decide

theorem witness_OamDmaCopiesPage :
    Memory.wf 256 busy.ppu.oam ∧ (0x1F : Byte).toNat < 0x20 ∧ 0x80 ≤ (0x80 : Byte).toNat := by decide

/-- A sprite at column 16 over an opaque background, rendering on, the next dot drawing column 16 of line 0. -/
def overlap : State :=
  { atPos 0 16 0 with
    chrRam := [(0, 0xFF)]
    ppu.mask := 0x1E
    ppu.spr := [⟨0xFF, 0x00, 0x10, 0x00⟩]
    ppu.spr0OnLine := true }

/-- R446, T11: the dot of the overlap sets the flag, the one before it does not. -/
theorem test_sprite0_dot :
    (ppuAdvanceDot overlap).ppu.sprite0Hit = true ∧
      (ppuAdvanceDot { overlap with ppu.dot := 15 }).ppu.sprite0Hit = false := by decide +kernel

/-- The edges of each clause: columns 0 and 255, dots 255 and 319, lines 239 and 261, and rendering off. -/
theorem witness_SpritesAndSpriteZeroHit :
    let draws (s : State) : Prop := (byteBit s.ppu.mask 3 = 1 ∨ byteBit s.ppu.mask 4 = 1) ∧ s.ppu.line ≤ 239
    let renders (s : State) : Prop :=
      (byteBit s.ppu.mask 3 = 1 ∨ byteBit s.ppu.mask 4 = 1) ∧ (s.ppu.line ≤ 239 ∨ s.ppu.line = 261)
    let at' (line dot : Nat) : State := { overlap with ppu.line := line, ppu.dot := dot }
    (draws (at' 0 0) ∧ (at' 0 0).ppu.dot < 256) ∧ (draws (at' 239 255) ∧ (at' 239 255).ppu.dot < 256) ∧
    (¬(draws (at' 239 256) ∧ (at' 239 256).ppu.dot < 256) ∧
      ¬((at' 239 256).ppu.line = 261 ∧ (at' 239 256).ppu.dot = 0)) ∧
    (renders (at' 261 255) ∧ (at' 261 255).ppu.dot = 255) ∧ (renders (at' 261 319) ∧ (at' 261 319).ppu.dot = 319) ∧
    ¬(renders (atPos 0 255 0) ∧ (atPos 0 255 0).ppu.dot = 255) ∧ ¬(renders (at' 240 319) ∧ (at' 240 319).ppu.dot = 319) := by
  decide

/-- Each clause, the sequencer's last events in both modes and a count with no event among them. -/
theorem witness_ApuUnitsAndSequencer :
    { Envelope.reset with start := true }.start = true ∧ (Envelope.reset.start = false ∧ Envelope.reset.div = 0) ∧
    ({ Envelope.reset with div := 15 }.start = false ∧ { Envelope.reset with div := 15 }.div ≠ 0) ∧
    Apu.reset.noise.lfsr ≠ 0 ∧
    (let seq (five : Bool) (fs : Nat) : Apu := { Apu.reset with fiveStep := five, fs := fs }
     (seq false 7456).fs + 1 = 7457 ∧ (seq true 22370).fs + 1 = 22371 ∧ (seq true 14912).fs + 1 = 14913 ∧
     ((seq false 29828).fiveStep = false ∧ (seq false 29828).fs + 1 = 29829) ∧
     ((seq true 37280).fiveStep = true ∧ (seq true 37280).fs + 1 = 37281) ∧
     (seq true 29828).fs + 1 ∉ [7457, 14913, 22371, if (seq true 29828).fiveStep then 37281 else 29829]) := by decide

/-- The last register of the table is among those `ApuRegisterWrites` speaks of. -/
theorem witness_ApuRegisterWrites (a : Apu) :
    (0x4017 : Word) ∈ (apuWrites a 0x80).map Prod.fst ∧ (0x4000 : Word) ∈ (apuWrites a 0x80).map Prod.fst := by
  constructor <;> simp [apuWrites]

/-- R464, R465: `$400F` loads the length of a halted noise channel, not of a disabled one (index 1: 254). -/
theorem test_noise_length :
    let z : Noise := { Apu.reset.noise with enabled := true, env := { Envelope.reset with loop := true } }
    (z.write 3 0x08).length = 254 ∧ ({ z with enabled := false }.write 3 0x08).length = 0 := by decide

/-- R439, R476: the table each of `$2000`, `$2400`, `$2800`, `$2C00` shows, through the bus of the PPU. -/
theorem test_mirroring :
    let shown (s : State) : List Byte :=
      let t := { s with ppu.nametable := [(0, 1), (1024, 2)] }
      [ppuRead t 0x2000, ppuRead t 0x2400, ppuRead t 0x2800, ppuRead t 0x2C00]
    let mmc1 (control : BitVec 5) : State := banked 2 (.mmc1 ⟨0, 0, control, 0, 0, 0⟩) []
    shown { start [] with cfg.mirroring := .vertical } = [1, 2, 1, 2] ∧
    shown { start [] with cfg.mirroring := .horizontal } = [1, 1, 2, 2] ∧
    shown (mmc1 0x0C) = [1, 1, 1, 1] ∧ shown (mmc1 0x0D) = [2, 2, 2, 2] ∧ shown (mmc1 0x0E) = [1, 2, 1, 2] ∧
    shown (mmc1 0x0F) = [1, 1, 2, 2] := by decide +kernel

theorem inRom_of {a : Word} (h : 0x8000 ≤ a.toNat) : InRom a := h

/-- Each mapper with a bank count its clause takes, and the edges of the two halves of PRG space. -/
theorem witness_MapperBanking :
    (∀ a ∈ [(0x8000 : Word), 0xBFFF, 0xC000, 0xFFFF], InRom a) ∧ ¬InRom 0x7FFF ∧
    ((banked 2 .nrom []).mapper = .nrom ∧ (banked 2 .nrom []).cfg.prgBanks ≤ 2) ∧
    ((banked 1 (.cnrom 3) []).mapper = .cnrom 3 ∧ (banked 1 (.cnrom 3) []).cfg.prgBanks ≤ 2) ∧
    (banked 4 (.uxrom 5) []).mapper = .uxrom 5 ∧
    ((banked 4 (.gxrom 1 1) []).mapper = .gxrom 1 1 ∧ (banked 4 (.gxrom 1 1) []).cfg.prgBanks % 2 = 0) ∧
    (∀ k : BitVec 5, (banked 4 (.mmc1 ⟨0, 0, k, 0, 0, 0⟩) []).mapper = .mmc1 ⟨0, 0, k, 0, 0, 0⟩) ∧
    ((0x1FFF : VAddr).toNat < 0x2000 ∧ (banked 4 .nrom []).cfg.chrBanks = 0) ∧
    0 < { banked 4 (.cnrom 3) [] with cfg.chrBanks := 4 }.cfg.chrBanks ∧
    ((0x0F : BitVec 5).toNat / 16 = 0 ∧ (0x10 : BitVec 5).toNat / 16 = 1) := by
  refine ⟨?_, fun h => absurd h (by unfold InRom; decide), by decide, by decide, rfl, by decide, fun _ => rfl, by decide,
    by decide, by decide⟩
  intro a ha
  fin_cases ha <;> exact inRom_of (by decide)

theorem witness_Mmc1SerialWrites :
    busy.mapper = .mmc1 ⟨0, 0, 0x0C, 0, 0, 0⟩ ∧ (∀ a ∈ [(0x8000 : Word), 0x9FFF, 0xA000, 0xC000, 0xFFFF], InRom a) ∧
    (∀ v ∈ [(0x00 : Byte), 0x01, 0x7F, 0x7E, 0x01], v.toNat < 128) ∧ 128 ≤ (0x80 : Byte).toNat := by
  refine ⟨rfl, ?_, by decide, by decide⟩
  intro a ha
  fin_cases ha <;> exact inRom_of (by decide)

theorem witness_ControllerSerialRead :
    { start [] with input := [0x09] }.input = 0x09 :: [] ∧ (0x01 : Byte).toNat % 2 = 1 ∧ (0xFE : Byte).toNat % 2 = 0 :=
  ⟨rfl, by decide, by decide⟩

theorem witness_EveryOpcodeByteDecodes : (0x02 : Byte) ∈ undefBytes ∧ (0xEA : Byte) ∉ undefBytes := by decide

end Sys2Proof.Tests
end

section
/-! ## What a step is made of

Every step is a run of bus accesses and changes of CPU registers, and beside them only a raised fault (R337) and the
cleared NMI queue (R415, R416). Whatever these four keep, a step keeps. -/

namespace Sys2Proof.Machine

/-- `t` is `s` after some bus accesses and a change of CPU registers. -/
def ByBus (s t : State) : Prop := ∃ l c, t = (busRun l s).setCpu c

namespace ByBus

variable {s t u : State}

theorem run (l : List BusOp) (s : State) : ByBus s (busRun l s) := ⟨l, (busRun l s).cpu, rfl⟩

theorem refl (s : State) : ByBus s s := run [] s

theorem trans (h : ByBus s t) (k : ByBus t u) : ByBus s u := by
  obtain ⟨l, c, rfl⟩ := h
  obtain ⟨m, d, rfl⟩ := k
  exact ⟨l ++ m, d, by rw [busRun_setCpu, setCpu_setCpu, busRun_append]⟩

theorem setCpu (h : ByBus s t) (c : Cpu) : ByBus s (t.setCpu c) := h.trans ⟨[], c, rfl⟩

theorem setPc (h : ByBus s t) (w : Word) : ByBus s (t.setPc w) := h.setCpu { t.cpu with pc := w }

theorem read (h : ByBus s t) (a : Word) : ByBus s (memRead a t).2 := h.trans (run [.read a] t)

theorem dummyRead (h : ByBus s t) (a : Word) : ByBus s (dummyRead a t) := h.read a

theorem fetch (h : ByBus s t) : ByBus s (fetch t).2 := (h.read t.cpu.pc).setPc (t.cpu.pc + 1)

theorem push (h : ByBus s t) (v : Byte) : ByBus s (push v t) := h.trans ⟨_, _, push_eq_bus v t⟩

theorem pushWord (h : ByBus s t) (w : Word) : ByBus s (pushWord w t) := h.trans ⟨_, _, pushWord_eq w t⟩

theorem pull (h : ByBus s t) : ByBus s (pull t).2 := h.trans ⟨_, _, pull_eq_bus t⟩

theorem pullWord (h : ByBus s t) : ByBus s (pullWord t).2 := h.trans ⟨_, _, pullWord_eq t⟩

theorem readVector (h : ByBus s t) (v : Word) : ByBus s (readVector v t).2 := (h.read v).read (v + 1)

theorem takeInterrupt (h : ByBus s t) (b : Bool) (v : Word) : ByBus s (takeInterrupt b v t) :=
  (((h.pushWord _).push _).readVector v).setCpu _

theorem implied (f : Cpu → Cpu) (s : State) : ByBus s (implied f s) := ⟨_, _, implied_eq f s⟩

theorem withOperand (f : Cpu → Byte → Cpu) (o : Src) (s : State) : ByBus s (withOperand f o s) :=
  ⟨_, _, withOperand_eq f o s⟩

theorem branch (taken : Bool) (d : Byte) (s : State) : ByBus s (branch taken d s) := ⟨_, _, branch_eq taken d s⟩

theorem storeLoc (l : Loc) (v : Byte) (s : State) : ByBus s (storeLoc l v s) := by
  rw [storeLoc_eq]
  exact run _ s

theorem readAndDiscard (l : Loc) (s : State) : ByBus s (readAndDiscard l s) := by
  rw [readAndDiscard_eq]
  exact run _ s

theorem modifyLoc (f : Cpu → Byte → Modified) (l : Loc) (s : State) : ByBus s (modifyLoc f l s) :=
  ⟨_, _, modifyLoc_eq f l s⟩

theorem modifyTarget (f : Cpu → Byte → Modified) (g : Target) (s : State) : ByBus s (modifyTarget f g s) := by
  cases g with
  | acc => exact ⟨_, _, modifyAcc_eq f s⟩
  | mem l => exact modifyLoc f l s

theorem pullAfterDummies (s : State) : ByBus s (pullAfterDummies s).2 :=
  (((refl s).dummyRead _).dummyRead _).pull

theorem returnFromInterrupt (s : State) : ByBus s (returnFromInterrupt s) :=
  ((pullAfterDummies s).setCpu _).pullWord.setPc _

end ByBus

/-- Fetching an instruction reads its bytes and moves `pc`, one to three times (R100). -/
theorem fetchInstr_byBus (s : State) : ByBus s (fetchInstr s).2 := by
  have one : ByBus s (fetch s).2 := (ByBus.refl s).fetch
  rw [fetchInstr]
  split
  · exact one
  · exact one.fetch
  · exact one.fetch.fetch
  · exact one.fetch

/-- Every instruction answers a next state: by the bus, or by raising the fault of an undefined opcode (R337). -/
theorem exec_cases (i : Instr) (s : State) :
    ∃ t, exec i s = .next t ∧
      (ByBus s t ∨ ∃ op, i = .undef op ∧ t = raiseFault (.unimplementedOpcode op (s.cpu.pc - 1)) s) := by
  have dummy : ByBus s (dummyRead s.cpu.pc s) := (ByBus.refl s).dummyRead _
  cases i with
  | clc | sec | cli | sei | clv | cld | sed | tax | tay | txa | tya | tsx | txs | inx | iny | dex | dey =>
    exact ⟨_, rfl, .inl (.implied _ s)⟩
  | nop | nopImp => exact ⟨_, rfl, .inl dummy⟩
  | pha | php => exact ⟨_, rfl, .inl (dummy.push _)⟩
  | pla | plp => exact ⟨_, rfl, .inl ((ByBus.pullAfterDummies s).setCpu _)⟩
  | jmp => exact ⟨_, rfl, .inl ((ByBus.refl s).setPc _)⟩
  | jmpInd => exact ⟨_, rfl, .inl ((((ByBus.refl s).read _).read _).setPc _)⟩
  | jsr => exact ⟨_, rfl, .inl (((((ByBus.refl s).dummyRead _).pushWord _).read _).setPc _)⟩
  | rts => exact ⟨_, rfl, .inl (((dummy.dummyRead _).pullWord.dummyRead _).setPc _)⟩
  | rti => exact ⟨_, rfl, .inl (.returnFromInterrupt s)⟩
  | brk => exact ⟨_, rfl, .inl ((ByBus.refl s).fetch.takeInterrupt _ _)⟩
  | bpl | bmi | bvc | bvs | bcc | bcs | bne | beq => exact ⟨_, rfl, .inl (.branch _ _ s)⟩
  | lda | ldx | ldy | adc | sbc | cmp | cpx | cpy | and | ora | eor | bit | lax =>
    exact ⟨_, rfl, .inl (.withOperand _ _ s)⟩
  | sta | stx | sty => exact ⟨_, rfl, .inl (.storeLoc _ _ s)⟩
  | asl | lsr | rol | ror => exact ⟨_, rfl, .inl (.modifyTarget _ _ s)⟩
  | inc | dec => exact ⟨_, rfl, .inl (.modifyLoc _ _ s)⟩
  | nopImm => exact ⟨_, rfl, .inl (.refl s)⟩
  | nopZp | nopZpx | nopAbs | nopAbx => exact ⟨_, rfl, .inl (.readAndDiscard _ s)⟩
  | undef op => exact ⟨_, rfl, .inr ⟨op, rfl, rfl⟩⟩

/-- The NMI check does nothing, or clears the queue and goes on by the bus (R415, R416). -/
theorem nmiCheck_cases (s : State) : nmiCheck s = s ∨ ByBus { s with nmiQueued := false } (nmiCheck s) := by
  rw [nmiCheck]
  split_ifs
  · exact .inr ((((ByBus.refl _).dummyRead _).dummyRead _).takeInterrupt _ _)
  · exact .inl rfl

/-- The parts of an instruction's effect keep `P`: a bus access, a change of CPU registers, a raised fault. -/
structure KeptByExec (P : State → Prop) : Prop where
  access : ∀ (o : BusOp) s, P s → P (o.run s)
  setCpu : ∀ c s, P s → P (s.setCpu c)
  raiseFault : ∀ e s, P s → P (raiseFault e s)

/-- The parts of a step's effect keep `P`: those of an instruction, and the NMI service's clearing of the queue. -/
structure KeptByStep (P : State → Prop) : Prop extends KeptByExec P where
  unqueueNmi : ∀ s, P s → P { s with nmiQueued := false }

section

variable {P : State → Prop} {s t : State}

theorem KeptByExec.busRun (hP : KeptByExec P) (l : List BusOp) (hs : P s) : P (busRun l s) := by
  induction l generalizing s with
  | nil => exact hs
  | cons o l ih => exact ih (hP.access o s hs)

theorem KeptByExec.byBus (hP : KeptByExec P) (h : ByBus s t) (hs : P s) : P t := by
  obtain ⟨l, c, rfl⟩ := h
  exact hP.setCpu c _ (hP.busRun l hs)

theorem KeptByExec.exec (hP : KeptByExec P) {i : Instr} (h : exec i s = .next t) (hs : P s) : P t := by
  obtain ⟨u, hu, hcases⟩ := exec_cases i s
  obtain rfl : u = t := by simpa [hu] using h
  obtain hbus | ⟨op, -, rfl⟩ := hcases
  · exact hP.byBus hbus hs
  · exact hP.raiseFault _ s hs

theorem KeptByStep.nmiCheck (hP : KeptByStep P) (hs : P s) : P (nmiCheck s) := by
  obtain h | h := nmiCheck_cases s
  · rwa [h]
  · exact hP.byBus h (hP.unqueueNmi s hs)

/-- Whatever the parts of a step keep, the step keeps. -/
theorem KeptByStep.step (hP : KeptByStep P) (h : step s = .next t) (hs : P s) : P t := by
  rw [Machine.step] at h
  split_ifs at h with hfault
  · cases h
    exact hs
  · dsimp only at h
    split at h
    next u hu =>
      cases h
      exact hP.nmiCheck (hP.exec hu (hP.byBus (fetchInstr_byBus s) hs))
    next => cases h
    next => cases h

end

end Sys2Proof.Machine
end

section
/-! ## The cartridge through a step (R7, R40, R72) -/

namespace Sys2Proof.Machine

/-- A mapper write changes bank registers, never the kind of mapper (R472 to R476). -/
@[simp] theorem mapper_write_kind (m : Mapper) (a : Word) (v : Byte) : (m.write a v).kind = m.kind := by
  cases m <;> rfl

@[simp] theorem memWrite_mapper_kind (a : Word) (v : Byte) (s : State) :
    (memWrite a v s).mapper.kind = s.mapper.kind := by
  rw [memWrite_mapper]
  split_ifs
  · exact mapper_write_kind s.mapper a v
  · rfl

theorem run_cfg (o : BusOp) (s : State) : (o.run s).cfg = s.cfg := busRun_cfg [o] s

theorem run_mapper_kind (o : BusOp) (s : State) : (o.run s).mapper.kind = s.mapper.kind := by
  cases o with
  | read a => exact congrArg Mapper.kind (dummyRead_mapper s a)
  | write a v => exact memWrite_mapper_kind a v s

/-- Having a given configuration and kind of mapper. -/
def HasCartridge (cfg : Cfg) (kind : MapperKind) (s : State) : Prop := s.cfg = cfg ∧ s.mapper.kind = kind

theorem hasCartridge_keptByStep (cfg : Cfg) (kind : MapperKind) : KeptByStep (HasCartridge cfg kind) where
  access o s h := ⟨(run_cfg o s).trans h.1, (run_mapper_kind o s).trans h.2⟩
  setCpu _ _ h := h
  raiseFault _ _ h := h
  unqueueNmi _ h := h

/-- Settles O12: a step is bus accesses, changes of CPU registers, a raised fault and an emptied NMI queue; of these
only a bus write reaches the mapper, and it keeps the kind. -/
theorem configurationNeverChanges : Obligations.ConfigurationNeverChanges := fun s _ h =>
  (hasCartridge_keptByStep s.cfg s.mapper.kind).step h ⟨rfl, rfl⟩

end Sys2Proof.Machine
end

section
/-! ## The invariant and a queued NMI through a step (R32, R33, R411, R433, R441) -/

namespace Sys2Proof.Machine

theorem inv_keptByStep : KeptByStep Inv where
  access o s h := by
    cases o with
    | read a => exact memRead_inv h a
    | write a v => exact memWrite_inv h a v
  setCpu c _ h := setCpu_inv h c
  raiseFault _ _ h := { h with }
  unqueueNmi _ h := { h with }

/-- Settles O10: each bus access keeps the invariant, and the other parts of a step touch nothing it speaks of. -/
theorem stepKeepsInvariant : Obligations.StepKeepsInvariant := fun _ _ hs h => inv_keptByStep.step h hs

@[simp] theorem drawDot_nmiQueued (s : State) (x y : Nat) : (drawDot s x y).nmiQueued = s.nmiQueued := rfl

@[simp] theorem renderDot_nmiQueued (s : State) : (renderDot s).nmiQueued = s.nmiQueued := by
  unfold renderDot
  dsimp only
  split_ifs <;> rfl

@[simp] theorem ppuDataRead_nmiQueued (s : State) : (ppuDataRead s).2.nmiQueued = s.nmiQueued := by
  unfold ppuDataRead
  dsimp only
  split_ifs <;> rfl

@[simp] theorem ppuWrite_nmiQueued (a : VAddr) (v : Byte) (s : State) : (ppuWrite a v s).nmiQueued = s.nmiQueued := by
  unfold ppuWrite chrWrite
  dsimp only
  split_ifs <;> rfl

@[simp] theorem ppuDataWrite_nmiQueued (v : Byte) (s : State) : (ppuDataWrite v s).nmiQueued = s.nmiQueued :=
  ppuWrite_nmiQueued s.ppu.vramAddr v s

@[simp] theorem ppuScrollWrite_nmiQueued (v : Byte) (s : State) : (ppuScrollWrite v s).nmiQueued = s.nmiQueued := by
  unfold ppuScrollWrite
  split <;> rfl

@[simp] theorem ppuAddrWrite_nmiQueued (v : Byte) (s : State) : (ppuAddrWrite v s).nmiQueued = s.nmiQueued := by
  unfold ppuAddrWrite
  split <;> rfl

section

variable {s : State} (h : s.nmiQueued = true)
include h

/-- The edge logic only ever sets the queue (R441). -/
theorem nmiLineEval_queued : (nmiLineEval s).nmiQueued = true := by
  rw [nmiLineEval, h, Bool.true_or]

theorem ppuFlagEvents_queued : (ppuFlagEvents s).nmiQueued = true := by
  unfold ppuFlagEvents
  split_ifs
  · rw [videoHandOff]
    exact nmiLineEval_queued h
  · exact nmiLineEval_queued h
  · exact h

theorem ppuAdvanceDot_queued : (ppuAdvanceDot s).nmiQueued = true := by
  have moved := ppuFlagEvents_queued (s := { s with ppu := s.ppu.nextPos }) h
  unfold ppuAdvanceDot
  dsimp only
  split_ifs
  · rwa [renderDot_nmiQueued]
  · exact moved

theorem tick_queued : (tick s).nmiQueued = true := by
  rw [tick, apuAdvance_nmiQueued]
  exact ppuAdvanceDot_queued (ppuAdvanceDot_queued (ppuAdvanceDot_queued h))

/-- A PPUSTATUS read lets the line fall, which un-queues nothing (R433). -/
theorem ppuRegRead_queued (r : PpuReg) : (ppuRegRead r s).2.nmiQueued = true := by
  cases r
  case status => exact nmiLineEval_queued h
  case data => exact (ppuDataRead_nmiQueued s).trans h
  all_goals exact h

theorem memRead_queued (a : Word) : (memRead a s).2.nmiQueued = true := by
  have ht := tick_queued h
  unfold memRead busDecodeRead
  dsimp only
  split_ifs
  · exact ht
  · exact ppuRegRead_queued ht _
  · exact ht
  · rwa [controllerRead_nmiQueued]
  · exact ht
  · exact ht
  · rwa [mapperRead_nmiQueued]

/-- A PPUCTRL write may let the line fall, which un-queues nothing (R411, R431). -/
theorem ppuRegWrite_queued (r : PpuReg) (v : Byte) : (ppuRegWrite r v s).nmiQueued = true := by
  cases r
  case ctrl => exact nmiLineEval_queued h
  case scroll => exact (ppuScrollWrite_nmiQueued v s).trans h
  case addr => exact (ppuAddrWrite_nmiQueued v s).trans h
  case data => exact (ppuDataWrite_nmiQueued v s).trans h
  all_goals exact h

theorem busStore_queued (a : Word) (v : Byte) : (busStore a v s).nmiQueued = true := by
  unfold busStore
  dsimp only
  split_ifs
  · exact h
  · exact ppuRegWrite_queued h _ v
  · exact h
  · rwa [controllerWrite_nmiQueued]
  · exact h
  · exact h
  · rwa [mapperWrite_nmiQueued]

theorem oamDmaFrom_queued (page : Byte) (n i : Nat) : (oamDmaFrom page n i s).nmiQueued = true := by
  induction n generalizing i s with
  | zero => exact h
  | succ n ih => exact ih (busStore_queued (tick_queued (memRead_queued h _)) _ _) (i + 1)

theorem memWrite_queued (a : Word) (v : Byte) : (memWrite a v s).nmiQueued = true := by
  unfold memWrite busDecodeWrite
  split_ifs
  · exact oamDmaFrom_queued (tick_queued h) v 256 0
  · exact busStore_queued (tick_queued h) a v

end

theorem queued_keptByExec : KeptByExec fun s => s.nmiQueued = true where
  access o s h := by
    cases o with
    | read a => exact memRead_queued h a
    | write a v => exact memWrite_queued h a v
  setCpu _ _ h := h
  raiseFault _ _ h := h

/-- Settles O13: an instruction is bus accesses, changes of CPU registers or a raised fault, and the NMI edge logic that a
bus access runs only ever sets the queue. -/
theorem queuedNmiStaysQueued : Obligations.QueuedNmiStaysQueued := fun _ _ _ hs h => queued_keptByExec.exec h hs

end Sys2Proof.Machine
end

section
/-! ## Operands and arithmetic whatever D is (R29, R265) -/

namespace Sys2Proof.Machine

/-- The CPU with the D flag at `b`. -/
def Cpu.withD (c : Cpu) (b : Bool) : Cpu := { c with d := b }

/-- ADC and SBC of a byte are binary whatever D is, and keep it (R260, R261, R265). -/
theorem adc_withD (c : Cpu) (b : Bool) (m : Byte) : (c.withD b).adc m = (c.adc m).withD b := rfl

theorem sbc_withD (c : Cpu) (b : Bool) (m : Byte) : (c.withD b).sbc m = (c.sbc m).withD b := rfl

section

variable {s : State} {c : Cpu} (hx : c.x = s.cpu.x) (hy : c.y = s.cpu.y)
include hx hy

/-- Of the CPU registers, an operand's address depends on X and Y alone (R113 to R118). -/
theorem effAddr_setCpu (l : Loc) : effAddr l (s.setCpu c) = effAddr l s := by
  cases l <;> simp [effAddr, zpPointer, hx, hy]

theorem locReads_setCpu (k : Access) (l : Loc) : locReads k l (s.setCpu c) = locReads k l s := by
  cases l <;> simp [locReads, zpPointer, hx, hy]

theorem srcReads_setCpu (o : Src) : srcReads o (s.setCpu c) = srcReads o s := by
  cases o with
  | imm v => rfl
  | mem l => rw [srcReads, srcReads, locReads_setCpu hx hy, effAddr_setCpu hx hy]

theorem srcByte_setCpu (o : Src) : srcByte o (s.setCpu c) = srcByte o s := by
  cases o with
  | imm v => rfl
  | mem l =>
    rw [srcByte, srcByte, locReads_setCpu hx hy, effAddr_setCpu hx hy, busRun_setCpu, memRead_setCpu]

end

/-- A read-kind instruction whose register change commutes with D commutes with D as a whole. -/
theorem withOperand_withD {f : Cpu → Byte → Cpu} (hf : ∀ c b m, f (c.withD b) m = (f c m).withD b) (o : Src) (s : State)
    (b : Bool) :
    withOperand f o (s.setCpu (s.cpu.withD b)) = (withOperand f o s).setCpu ((withOperand f o s).cpu.withD b) := by
  simp only [withOperand_eq, setCpu_cpu, hf, busRun_setCpu, setCpu_setCpu,
    srcReads_setCpu (s := s) (c := s.cpu.withD b) rfl rfl, srcByte_setCpu (s := s) (c := s.cpu.withD b) rfl rfl]

/-- Settles O41: the operand's accesses and its byte do not depend on D, nor does the sum or the difference. -/
theorem decimalFlagHasNoEffect : Obligations.DecimalFlagHasNoEffect := by
  intro s o b i hi
  obtain rfl | rfl : i = .adc o ∨ i = .sbc o := by simpa using hi
  · refine ⟨withOperand Cpu.adc o s, rfl, ?_, congrArg _ (withOperand_withD adc_withD o s b)⟩
    rw [withOperand_cpu]
    rfl
  · refine ⟨withOperand Cpu.sbc o s, rfl, ?_, congrArg _ (withOperand_withD sbc_withD o s b)⟩
    rw [withOperand_cpu]
    rfl

end Sys2Proof.Machine
end

section
/-! ## Sprites, dot by dot (R432, R440, R443 to R446) -/

namespace Sys2Proof.Machine

theorem rendering_iff (p : Ppu) : p.rendering = true ↔ byteBit p.mask 3 = 1 ∨ byteBit p.mask 4 = 1 := by
  simp only [Ppu.rendering, getLsbD_byteBit, Bool.or_eq_true, decide_eq_true_eq]

theorem renders_iff (p : Ppu) :
    p.renders = true ↔ (byteBit p.mask 3 = 1 ∨ byteBit p.mask 4 = 1) ∧ (p.line ≤ 239 ∨ p.line = 261) := by
  rw [Ppu.renders, Bool.and_eq_true, rendering_iff, decide_eq_true_eq]

/-! ### What rendering does at a position -/

theorem evalSprites_eq (p : Ppu) (l : Nat) :
    p.evalSprites l = { p with secOam := firstEight p l, sprite0Present := fitsLine p l 0 } := by
  have hq : p.qualifies l = fitsLine p l := funext (qualifies_eq p l)
  rw [Ppu.evalSprites, hq]
  rfl

theorem firstEight_length_le (p : Ppu) (l : Nat) : (firstEight p l).length ≤ 8 := by
  rw [firstEight, List.length_map]
  exact List.length_take_le 8 _

theorem fetchSprites_eq (s : State) (l : Nat) :
    fetchSprites s l =
      { s with ppu.spr := s.ppu.secOam.map (slotOf s l), ppu.spr0OnLine := s.ppu.sprite0Present } := by
  have hf : fetchSlot s l = slotOf s l := funext (fetchSlot_eq s l)
  rw [fetchSprites, hf]

/-- The position has a pixel of the frame (R440). -/
abbrev Ppu.onScreen (p : Ppu) : Prop := p.line ≤ 239 ∧ 1 ≤ p.dot ∧ p.dot ≤ 256

variable {s : State}

theorem drawDot_sprite0Hit (s : State) (x y : Nat) :
    (drawDot s x y).ppu.sprite0Hit = (s.ppu.sprite0Hit || spriteZeroHitAt s x y) := by
  rw [← sprite0Hits_eq]
  rfl

/-- A pixel may set the sprite-zero flag (R446); neither the evaluation nor the fetch of the same dot does. -/
theorem renderDot_sprite0Hit (h : s.ppu.onScreen) :
    (renderDot s).ppu.sprite0Hit = (s.ppu.sprite0Hit || spriteZeroHitAt s (s.ppu.dot - 1) s.ppu.line) := by
  rw [← drawDot_sprite0Hit]
  simp only [renderDot, if_pos h]
  split_ifs <;> rfl

theorem renderDot_sprite0Hit_offScreen (h : ¬s.ppu.onScreen) : (renderDot s).ppu.sprite0Hit = s.ppu.sprite0Hit := by
  simp only [renderDot, if_neg h]
  split_ifs <;> rfl

theorem renderDot_evaluates (h : s.ppu.dot = 256) :
    (renderDot s).ppu.secOam = firstEight s.ppu s.ppu.line ∧
      (renderDot s).ppu.sprite0Present = fitsLine s.ppu s.ppu.line 0 := by
  simp only [renderDot, if_pos h, evalSprites_eq]
  split_ifs <;> exact ⟨rfl, rfl⟩

theorem renderDot_evaluation_kept (h : s.ppu.dot ≠ 256) :
    (renderDot s).ppu.secOam = s.ppu.secOam ∧ (renderDot s).ppu.sprite0Present = s.ppu.sprite0Present := by
  simp only [renderDot, if_neg h]
  split_ifs <;> exact ⟨rfl, rfl⟩

theorem renderDot_fetches (h : s.ppu.dot = 320) :
    (renderDot s).ppu.spr = s.ppu.secOam.map (slotOf s s.ppu.line) ∧
      (renderDot s).ppu.spr0OnLine = s.ppu.sprite0Present := by
  have hoff : ¬s.ppu.onScreen := by omega
  have heval : s.ppu.dot ≠ 256 := by omega
  simp only [renderDot, if_neg hoff, if_neg heval, if_pos h, fetchSprites_eq, and_self]

theorem renderDot_fetch_kept (h : s.ppu.dot ≠ 320) :
    (renderDot s).ppu.spr = s.ppu.spr ∧ (renderDot s).ppu.spr0OnLine = s.ppu.spr0OnLine := by
  simp only [renderDot, if_neg h]
  split_ifs <;> exact ⟨rfl, rfl⟩

/-! ### The advance to a position -/

/-- The state at the next position after its flag events, before anything is rendered there (R440). -/
def atNextPos (s : State) : State := ppuFlagEvents { s with ppu := s.ppu.nextPos }

theorem ppuAdvanceDot_eq (s : State) :
    ppuAdvanceDot s = if (atNextPos s).ppu.renders then renderDot (atNextPos s) else atNextPos s := rfl

theorem ppuAdvanceDot_cases (s : State) :
    ppuAdvanceDot s = atNextPos s ∨ (atNextPos s).ppu.renders = true ∧ ppuAdvanceDot s = renderDot (atNextPos s) := by
  rw [ppuAdvanceDot_eq]
  split_ifs with h
  · exact .inr ⟨h, rfl⟩
  · exact .inl rfl

/-- The next position moves the line and the dot alone (R440). -/
theorem nextPos_eq (p : Ppu) : p.nextPos = { p with line := p.nextPos.line, dot := p.nextPos.dot } := by
  unfold Ppu.nextPos
  split_ifs <;> rfl

/-- Within a line the dot goes up by one (R440). -/
theorem nextPos_eq_of_dot {p : Ppu} (h : p.dot ≠ 340) : p.nextPos = { p with dot := p.dot + 1 } :=
  if_neg (by omega)

/-- A line is entered at dot 0 (R440). -/
theorem dot_ne_of_nextPos_dot {p : Ppu} {k : Nat} (h : p.nextPos.dot = k + 1) : p.dot ≠ 340 := by
  intro hd
  simp [Ppu.nextPos, hd] at h

/-- Off the dots of the flag events, the advance within a rendered line is the rendering of the next dot (R440). -/
theorem ppuAdvanceDot_renders (hr : s.ppu.renders = true) (hd : s.ppu.dot ≠ 340)
    (hflag : ¬(s.ppu.line = 261 ∧ s.ppu.dot = 0)) :
    ppuAdvanceDot s = renderDot { s with ppu.dot := s.ppu.dot + 1 } := by
  have hline := ((renders_iff s.ppu).1 hr).2
  have hpos : atNextPos s = { s with ppu.dot := s.ppu.dot + 1 } := by
    rw [atNextPos, nextPos_eq_of_dot hd]
    refine ppuFlagEvents_none ?_
    dsimp only
    omega
  rw [ppuAdvanceDot_eq, hpos]
  exact if_pos hr

/-- Where a drawn dot that is not the first of its line was reached from (R440). -/
theorem eq_of_atNextPos_renders {k : Nat} (hr : (atNextPos s).ppu.renders = true) (hd : (atNextPos s).ppu.dot = k + 1) :
    s.ppu.renders = true ∧ s.ppu.dot = k ∧ (atNextPos s).ppu.line = s.ppu.line := by
  obtain ⟨hline, hdot⟩ := ppuFlagEvents_position { s with ppu := s.ppu.nextPos }
  have hmask := (ppuFlagEvents_sprites { s with ppu := s.ppu.nextPos }).1
  rw [← atNextPos] at hline hdot hmask
  have hpos := nextPos_eq_of_dot (dot_ne_of_nextPos_dot (hdot.symm.trans hd))
  simp only [hpos] at hline hdot hmask
  rw [renders_iff, hmask, hline, ← renders_iff] at hr
  exact ⟨hr, by omega, hline⟩

/-- From any other position an advance does not render dot `k + 1`. -/
theorem ppuAdvanceDot_cases_of_not_from {k : Nat} (h : ¬(s.ppu.renders = true ∧ s.ppu.dot = k)) :
    ppuAdvanceDot s = atNextPos s ∨
      (atNextPos s).ppu.dot ≠ k + 1 ∧ ppuAdvanceDot s = renderDot (atNextPos s) := by
  obtain e | ⟨hr, e⟩ := ppuAdvanceDot_cases s
  · exact .inl e
  · refine .inr ⟨fun hd => ?_, e⟩
    obtain ⟨hrs, hdot, -⟩ := eq_of_atNextPos_renders hr hd
    exact h ⟨hrs, hdot⟩

/-- Neither the position nor the flag events touch the sprites that were evaluated and fetched (R440). -/
theorem atNextPos_sprites (s : State) :
    (atNextPos s).ppu.secOam = s.ppu.secOam ∧ (atNextPos s).ppu.sprite0Present = s.ppu.sprite0Present ∧
      (atNextPos s).ppu.spr = s.ppu.spr ∧ (atNextPos s).ppu.spr0OnLine = s.ppu.spr0OnLine := by
  obtain ⟨-, -, -, hsec, hpresent, hspr, hline⟩ := ppuFlagEvents_sprites { s with ppu := s.ppu.nextPos }
  rw [nextPos_eq] at hsec hpresent hspr hline
  rw [atNextPos, nextPos_eq]
  exact ⟨hsec, hpresent, hspr, hline⟩

/-- Of the flag events only that of (261, 1) touches the sprite-zero flag (R440). -/
theorem ppuFlagEvents_sprite0Hit (h : ¬(s.ppu.line = 261 ∧ s.ppu.dot = 1)) :
    (ppuFlagEvents s).ppu.sprite0Hit = s.ppu.sprite0Hit := by
  unfold ppuFlagEvents
  rw [if_neg h]
  split_ifs <;> rfl

theorem atNextPos_sprite0Hit (h : ¬(s.ppu.line = 261 ∧ s.ppu.dot = 0)) :
    (atNextPos s).ppu.sprite0Hit = s.ppu.sprite0Hit := by
  have hpos : ¬(s.ppu.nextPos.line = 261 ∧ s.ppu.nextPos.dot = 1) := by
    rintro ⟨hline, hdot⟩
    rw [nextPos_eq_of_dot (dot_ne_of_nextPos_dot hdot)] at hline hdot
    exact h ⟨hline, Nat.succ.inj hdot⟩
  refine (ppuFlagEvents_sprite0Hit (s := { s with ppu := s.ppu.nextPos }) hpos).trans ?_
  rw [nextPos_eq]

/-! ### Sprites through an advance -/

theorem ppuAdvanceDot_sprite0Hit (hr : s.ppu.renders = true) (hline : s.ppu.line ≤ 239) (hd : s.ppu.dot < 256) :
    (ppuAdvanceDot s).ppu.sprite0Hit = (s.ppu.sprite0Hit || spriteZeroHitAt s s.ppu.dot s.ppu.line) := by
  rw [ppuAdvanceDot_renders hr (by omega) (by omega)]
  exact renderDot_sprite0Hit ⟨hline, Nat.le_add_left .., hd⟩

theorem ppuAdvanceDot_sprite0Hit_kept (h : ¬(s.ppu.renders = true ∧ s.ppu.line ≤ 239 ∧ s.ppu.dot < 256))
    (hflag : ¬(s.ppu.line = 261 ∧ s.ppu.dot = 0)) : (ppuAdvanceDot s).ppu.sprite0Hit = s.ppu.sprite0Hit := by
  obtain e | ⟨hr, e⟩ := ppuAdvanceDot_cases s
  · rw [e, atNextPos_sprite0Hit hflag]
  · have hoff : ¬(atNextPos s).ppu.onScreen := by
      rintro ⟨hline, h1, h256⟩
      obtain ⟨hrs, hdot, hl⟩ := eq_of_atNextPos_renders hr (Nat.sub_add_cancel h1).symm
      exact h ⟨hrs, by omega, by omega⟩
    rw [e, renderDot_sprite0Hit_offScreen hoff, atNextPos_sprite0Hit hflag]

theorem ppuAdvanceDot_evaluates (hr : s.ppu.renders = true) (hd : s.ppu.dot = 255) :
    (ppuAdvanceDot s).ppu.secOam = firstEight s.ppu s.ppu.line ∧
      (ppuAdvanceDot s).ppu.sprite0Present = fitsLine s.ppu s.ppu.line 0 := by
  rw [ppuAdvanceDot_renders hr (by omega) (by omega)]
  exact renderDot_evaluates (congrArg (· + 1) hd)

theorem ppuAdvanceDot_evaluation_kept (h : ¬(s.ppu.renders = true ∧ s.ppu.dot = 255)) :
    (ppuAdvanceDot s).ppu.secOam = s.ppu.secOam ∧ (ppuAdvanceDot s).ppu.sprite0Present = s.ppu.sprite0Present := by
  obtain ⟨hsec, hpresent, -, -⟩ := atNextPos_sprites s
  rw [← hsec, ← hpresent]
  obtain e | ⟨hd, e⟩ := ppuAdvanceDot_cases_of_not_from h
  · rw [e]
    exact ⟨rfl, rfl⟩
  · rw [e]
    exact renderDot_evaluation_kept hd

theorem ppuAdvanceDot_fetches (hr : s.ppu.renders = true) (hd : s.ppu.dot = 319) :
    (ppuAdvanceDot s).ppu.spr = s.ppu.secOam.map (slotOf s s.ppu.line) ∧
      (ppuAdvanceDot s).ppu.spr0OnLine = s.ppu.sprite0Present := by
  rw [ppuAdvanceDot_renders hr (by omega) (by omega)]
  exact renderDot_fetches (congrArg (· + 1) hd)

theorem ppuAdvanceDot_fetch_kept (h : ¬(s.ppu.renders = true ∧ s.ppu.dot = 319)) :
    (ppuAdvanceDot s).ppu.spr = s.ppu.spr ∧ (ppuAdvanceDot s).ppu.spr0OnLine = s.ppu.spr0OnLine := by
  obtain ⟨-, -, hspr, hline⟩ := atNextPos_sprites s
  rw [← hspr, ← hline]
  obtain e | ⟨hd, e⟩ := ppuAdvanceDot_cases_of_not_from h
  · rw [e]
    exact ⟨rfl, rfl⟩
  · rw [e]
    exact renderDot_fetch_kept hd

/-- Settles O54: an advance renders the next dot of a rendered line or moves the position alone, and of what rendering
does only the pixel, the evaluation at dot 256 and the fetch at dot 320 reach the sprites. -/
theorem spritesAndSpriteZeroHit : Obligations.SpritesAndSpriteZeroHit := by
  refine ⟨fun p l => ⟨evalSprites_eq p l, ?_⟩, fun s => ?_⟩
  · rw [evalSprites_eq]
    exact firstEight_length_le p l
  · dsimp only
    have hdraws : (byteBit s.ppu.mask 3 = 1 ∨ byteBit s.ppu.mask 4 = 1) ∧ s.ppu.line ≤ 239 ↔
        s.ppu.renders = true ∧ s.ppu.line ≤ 239 := by
      rw [renders_iff]
      exact ⟨fun ⟨hm, hl⟩ => ⟨⟨hm, .inl hl⟩, hl⟩, fun ⟨⟨hm, _⟩, hl⟩ => ⟨hm, hl⟩⟩
    rw [← renders_iff, hdraws, and_assoc]
    exact ⟨fun ⟨hr, hl⟩ hd => ppuAdvanceDot_sprite0Hit hr hl hd, ppuAdvanceDot_sprite0Hit_kept,
      ppuAdvanceDot_evaluates, ppuAdvanceDot_evaluation_kept, ppuAdvanceDot_fetches, ppuAdvanceDot_fetch_kept⟩

end Sys2Proof.Machine
end

section
/-! ## RAM and the addresses that cannot be read (R66, R69 to R72) -/

namespace Sys2Proof.Machine

/-- Settles O45: a write below `$2000` is a tick and a store at the residue modulo `$0800`, a read the byte there and a
tick. -/
theorem ramIsMirrored : Obligations.RamIsMirrored := by
  intro s a b v hwf ha hb
  have hwrite := memWrite_inRam ha v s
  have hrising : Rising (tick s).ram := by
    rw [tick_ram]
    exact hwf.1
  refine ⟨?_, memRead_plain (.inl hb) s, ?_⟩
  · rw [memRead_inRam hb, memRead_inRam hb, hwrite, ramGet_ramSet hrising, ramGet_congr (tick_ram s)]
  · rw [hwrite, ramSet, tick_ram]
    exact memSet_wf hwf (Nat.mod_lt _ (by decide)) v

/-- A read of an APU register gives 0 and does nothing but tick (R69). -/
theorem memRead_apuReg {a : Word} (h1 : 0x4000 ≤ a.toNat) (h2 : a.toNat < 0x4018) (h3 : a ≠ 0x4014) (h4 : a ≠ 0x4016)
    (s : State) : memRead a s = (0, tick s) := by
  have h3' : a.toNat ≠ 0x4014 := fun h => h3 (BitVec.eq_of_toNat_eq h)
  have h4' : a.toNat ≠ 0x4016 := fun h => h4 (BitVec.eq_of_toNat_eq h)
  rw [memRead, busDecodeRead, if_neg (by omega), if_neg (by omega), if_neg h3', if_neg h4', if_pos h2]

/-- After the tick, a draw shows the free byte of the count before it (R64). -/
theorem drawByte_tick (s : State) :
    drawByte (tick s) = (Config.freeByte s.draws, { tick s with draws := s.draws + 1 }) := by
  rw [drawByte, tick_draws]

/-- From `$4018` up to the mapper's `$8000` nothing answers: a read draws a byte, a write is lost (R71, R72). -/
theorem memRead_open {a : Word} (h1 : 0x4018 ≤ a.toNat) (h2 : a.toNat < 0x8000) (s : State) :
    memRead a s = drawByte (tick s) := by
  rw [memRead, busDecodeRead, mapperRead, if_neg (by omega), if_neg (by omega), if_neg (by omega), if_neg (by omega),
    if_neg (by omega), if_pos h2, ite_self]

theorem memWrite_open {a : Word} (h1 : 0x4018 ≤ a.toNat) (h2 : a.toNat < 0x8000) (v : Byte) (s : State) :
    memWrite a v s = tick s := by
  have h : a ≠ 0x4014 := by
    rintro rfl
    exact absurd h1 (by decide)
  rw [memWrite_not4014 h, busStore, mapperWrite, if_neg (by omega), if_neg (by omega), if_neg (by omega), if_neg (by omega),
    if_neg (by omega), if_pos h2, ite_self]

/-- Settles O46: of the branches of the address decode from `$4000` to `$7FFF` but `$4016`, one answers 0 and the others
draw; the upper two ignore a write. -/
theorem unreadableAddresses : Obligations.UnreadableAddresses := by
  intro s a v hlow hhigh hctl
  refine ⟨fun hapu hdma => memRead_apuReg hlow hapu hdma hctl s, fun hfree => ?_, fun hopen =>
    memWrite_open hopen hhigh v s⟩
  rw [← drawByte_tick]
  obtain rfl | hopen := hfree
  · rfl
  · exact memRead_open hopen hhigh s

end Sys2Proof.Machine
end

section
/-! ## The PPU's registers on the bus (R67, R431 to R437) -/

namespace Sys2Proof.Machine

/-- The register of an address is that of its residue modulo 8 (R67). -/
theorem ppuRegOf_mod (k : Nat) : ppuRegOf (k % 8) = ppuRegOf k := by
  rw [ppuRegOf, ppuRegOf, Nat.mod_mod]

section

variable {a : Word} (h1 : 0x2000 ≤ a.toNat) (h2 : a.toNat < 0x4000) {j : Nat} (hj : a.toNat % 8 = j)
include h1 h2 hj

/-- A write at any mirror of register `j` (R67). -/
theorem memWrite_ppuMirror (v : Byte) (s : State) : memWrite a v s = ppuRegWrite (ppuRegOf j) v (tick s) := by
  rw [memWrite_ppuReg h1 h2, ← ppuRegOf_mod, hj]

/-- A read at any mirror of register `j` (R67). -/
theorem memRead_ppuMirror (s : State) : memRead a s = ppuRegRead (ppuRegOf j) (tick s) := by
  rw [memRead_ppuReg h1 h2, ← ppuRegOf_mod, hj]

end

/-- A PPUCTRL write stores the byte and re-evaluates the NMI line with its bit 7 (R431, R441). -/
theorem ppuRegWrite_ctrl (v : Byte) (s : State) :
    ppuRegWrite .ctrl v s =
      { s with
        ppu.ctrl := v
        nmiQueued := s.nmiQueued || (decide (128 ≤ v.toNat) && s.ppu.nmiOccurred && !s.nmiLinePrev)
        nmiLinePrev := decide (128 ≤ v.toNat) && s.ppu.nmiOccurred } := by
  rw [← bit7_eq]
  rfl

/-- Settles O47: each register's rule, at the residue modulo 8 that the bus decodes; the tick before it leaves OAM and
OAMADDR alone. -/
theorem ppuRegisterWrites : Obligations.PpuRegisterWrites := by
  intro s a v h1 h2
  refine ⟨fun h => ?_, fun h => memWrite_ppuMirror h1 h2 h v s, fun h => memWrite_ppuMirror h1 h2 h v s,
    fun h => memWrite_ppuMirror h1 h2 h v s, fun h hwf => ?_, fun h => ?_, fun h => ?_⟩
  · exact (memWrite_ppuMirror h1 h2 h v s).trans (ppuRegWrite_ctrl v (tick s))
  · have hwrite : memWrite a v s = oamDataWrite v (tick s) := memWrite_ppuMirror h1 h2 h v s
    simp only [hwrite, oamDataWrite, tick_ppu_oam, tick_ppu_oamAddr, true_and]
    exact fun k _ => memGet_memSet hwf.1 _ k v
  · obtain h | h | h := h
    all_goals exact memRead_ppuMirror h1 h2 h s
  · rw [← tick_ppu_oam, ← tick_ppu_oamAddr]
    exact memRead_ppuMirror h1 h2 h s

/-- Two parts of a word side by side, in numbers. -/
theorem append_eq_ofNat {m n : Nat} (x : BitVec m) (y : BitVec n) :
    x ++ y = BitVec.ofNat (m + n) (x.toNat * 2 ^ n + y.toNat) := by
  have hsum : (x ++ y).toNat = x.toNat * 2 ^ n + y.toNat := by
    rw [BitVec.toNat_append, ← Nat.shiftLeft_add_eq_or_of_lt y.isLt, Nat.shiftLeft_eq]
  rw [← hsum, BitVec.ofNat_toNat, BitVec.setWidth_eq]

/-- A word with its low eight bits from a byte, in numbers. -/
theorem setLowByte_eq_ofNat {m : Nat} (q : BitVec (m + 8)) (v : Byte) :
    q.extractLsb' 8 m ++ v = BitVec.ofNat (m + 8) (q.toNat / 256 * 256 + v.toNat) := by
  have hfits : q.toNat / 2 ^ 8 < 2 ^ m := by
    rw [Nat.div_lt_iff_lt_mul (by decide), ← Nat.pow_add]
    exact q.isLt
  rw [append_eq_ofNat, BitVec.extractLsb'_toNat, Nat.shiftRight_eq_div_pow, Nat.mod_eq_of_lt hfits]
  rfl

section

variable {s : State} (v : Byte)

/-- The first PPUSCROLL write is the X scroll, the second the Y scroll (R436). -/
theorem ppuScrollWrite_first (h : s.ppu.scrollLatch = .first) :
    ppuScrollWrite v s = { s with ppu.scrollX := v, ppu.scrollLatch := .second } := by
  rw [ppuScrollWrite, h]

theorem ppuScrollWrite_second (h : s.ppu.scrollLatch = .second) :
    ppuScrollWrite v s = { s with ppu.scrollY := v, ppu.scrollLatch := .first } := by
  rw [ppuScrollWrite, h]

/-- The first PPUADDR write is bits 13 to 8 of the VRAM address, the second bits 7 to 0 (R437). -/
theorem ppuAddrWrite_first (h : s.ppu.addrLatch = .first) :
    ppuAddrWrite v s =
      { s with
        ppu.vramAddr := BitVec.ofNat 14 (v.toNat % 64 * 256 + s.ppu.vramAddr.toNat % 256)
        ppu.addrLatch := .second } := by
  rw [ppuAddrWrite, h, append_eq_ofNat, BitVec.toNat_setWidth, BitVec.toNat_setWidth]
  rfl

theorem ppuAddrWrite_second (h : s.ppu.addrLatch = .second) :
    ppuAddrWrite v s =
      { s with
        ppu.vramAddr := BitVec.ofNat 14 (s.ppu.vramAddr.toNat / 256 * 256 + v.toNat)
        ppu.addrLatch := .first } := by
  rw [ppuAddrWrite, h, setLowByte_eq_ofNat (m := 6)]

end

/-- Settles O48: each register branches on its own latch, which the tick before the write leaves alone. -/
theorem twoWriteRegisters : Obligations.TwoWriteRegisters := by
  intro s a v h1 h2
  rw [← tick_ppu_scrollLatch, ← tick_ppu_addrLatch, ← tick_ppu_vramAddr]
  refine ⟨fun h hl => (memWrite_ppuMirror h1 h2 h v s).trans (ppuScrollWrite_first v hl),
    fun h hl => (memWrite_ppuMirror h1 h2 h v s).trans (ppuScrollWrite_second v hl),
    fun h hl => (memWrite_ppuMirror h1 h2 h v s).trans (ppuAddrWrite_first v hl),
    fun h hl => (memWrite_ppuMirror h1 h2 h v s).trans (ppuAddrWrite_second v hl), fun h => ?_⟩
  obtain h | h := h
  all_goals exact memRead_ppuMirror h1 h2 h s

end Sys2Proof.Machine
end

section
/-! ## The APU's registers (R462 to R468) -/

namespace Sys2Proof.Machine

/-- A field of a byte, by its value. -/
theorem extractLsb'_byte (v : Byte) (k w : Nat) : v.extractLsb' k w = BitVec.ofNat w (v.toNat / 2 ^ k) := by
  rw [← Nat.shiftRight_eq_div_pow]
  rfl

/-- A period with its low eight bits from a byte (R462, R463). -/
theorem period_setLow (q : BitVec 11) (v : Byte) :
    q.extractLsb' 8 3 ++ v = BitVec.ofNat 11 (q.toNat / 256 * 256 + v.toNat) :=
  setLowByte_eq_ofNat (m := 3) q v

/-- A period with its high three bits from a byte (R462, R463). -/
theorem period_setHigh (q : BitVec 11) (v : Byte) :
    v.extractLsb' 0 3 ++ q.setWidth 8 = BitVec.ofNat 11 (v.toNat % 8 * 256 + q.toNat % 256) := by
  rw [append_eq_ofNat, BitVec.extractLsb'_toNat, BitVec.toNat_setWidth]
  rfl

/-- What a length load leaves, from the spec's own table (R462 to R465, R491). -/
theorem loadLength_eq (enabled halt : Bool) (old v : Byte) :
    loadLength enabled halt old v =
      if enabled = true ∧ halt = false then BitVec.ofNat 8 (lengthsOfSpec.getD (v.toNat / 8) 0) else old := by
  have hindex : (v >>> 3).toNat = v.toNat / 8 := by
    rw [BitVec.toNat_ushiftRight, Nat.shiftRight_eq_div_pow]
  simp only [loadLength, hindex, Bool.and_eq_true, Bool.not_eq_true']
  rfl

/-- The length load of a channel that is not halted (R464, R465). -/
theorem loadLength_unhalted (enabled : Bool) (old v : Byte) :
    loadLength enabled false old v =
      if enabled = true then BitVec.ofNat 8 (lengthsOfSpec.getD (v.toNat / 8) 0) else old := by
  simp only [loadLength_eq, and_true]

/-- The spec's table of register writes, channel by channel, with its numbers read as the bits they are (R462 to R468). -/
theorem apuWrites_eq (a : Apu) (v : Byte) :
    apuWrites a v =
      (List.range 4).map (fun k => (BitVec.ofNat 16 (0x4000 + k), { a with pulse1 := a.pulse1.write k v })) ++
      (List.range 4).map (fun k => (BitVec.ofNat 16 (0x4004 + k), { a with pulse2 := a.pulse2.write k v })) ++
      (List.range 4).map (fun k => (BitVec.ofNat 16 (0x4008 + k), { a with triangle := a.triangle.write k v })) ++
      (List.range 4).map (fun k => (BitVec.ofNat 16 (0x400C + k), { a with noise := a.noise.write k v })) ++
      [(0x4010, a), (0x4011, a), (0x4012, a), (0x4013, a), (0x4015, a.writeEnable v), (0x4017, a.writeFrame v)] := by
  have hduty : BitVec.ofNat 2 (v.toNat / 64) = v.extractLsb' 6 2 := (extractLsb'_byte v 6 2).symm
  have hdivider : BitVec.ofNat 3 (v.toNat / 16) = v.extractLsb' 4 3 := (extractLsb'_byte v 4 3).symm
  simp only [apuWrites, hduty, hdivider, ← getLsbD_byteBit, ← period_setLow, ← period_setHigh, ← loadLength_eq, and_true,
    ← loadLength_unhalted]
  rfl

/-- The addresses of the APU's registers (R68). -/
def apuAddresses : List Word := (List.range 20).map (fun k => BitVec.ofNat 16 (0x4000 + k)) ++ [0x4015, 0x4017]

/-- Each address of the table leads to its own channel's write (R68). -/
theorem apuWrites_eq_map (a : Apu) (v : Byte) : apuWrites a v = apuAddresses.map fun x => (x, a.write x.toNat v) := by
  rw [apuWrites_eq]
  rfl

theorem apuAddresses_range : ∀ x ∈ apuAddresses, 0x4000 ≤ x.toNat ∧ x.toNat < 0x4018 ∧ x ≠ 0x4014 ∧ x ≠ 0x4016 :=
  List.forall_iff_forall_mem.1 (by decide)

/-- Settles O55: each address of the table reaches the APU's write alone, and the table is what that write does. -/
theorem apuRegisterWrites : Obligations.ApuRegisterWrites := by
  intro s v
  rw [apuWrites_eq_map]
  refine ⟨?_, fun r hr => ?_⟩
  · rw [List.map_map]
    exact List.map_id apuAddresses
  · obtain ⟨x, hx, rfl⟩ := List.mem_map.1 hr
    obtain ⟨h1, h2, h3, h4⟩ := apuAddresses_range x hx
    exact memWrite_apuReg h1 h2 h3 h4 v s

end Sys2Proof.Machine
end

section
/-! ## The clocks of an access (R61 to R64, R440, R450, R461) -/

namespace Sys2Proof.Machine

/-- What a tick counts: the CPU's and the APU's cycles and the PPU's position. -/
def State.clocks (s : State) : Nat × Nat × Nat × Nat := (s.cycles, s.apu.cyc, s.ppu.line, s.ppu.dot)

/-! ### The decoded accesses leave the clocks alone -/

theorem ppuRegRead_clocks (r : PpuReg) (s : State) : (ppuRegRead r s).2.clocks = s.clocks := by
  cases r
  case data =>
    show (ppuDataRead s).2.clocks = s.clocks
    unfold ppuDataRead
    dsimp only
    split_ifs <;> rfl
  all_goals rfl

theorem controllerRead_clocks (s : State) : (controllerRead s).2.clocks = s.clocks := by
  simp only [State.clocks, controllerRead_cycles, controllerRead_apu, controllerRead_ppu]

theorem busDecodeRead_clocks (a : Word) (s : State) : (busDecodeRead a s).2.clocks = s.clocks := by
  unfold busDecodeRead
  dsimp only
  split_ifs
  · rfl
  · exact ppuRegRead_clocks _ s
  · rfl
  · exact controllerRead_clocks s
  · rfl
  · rfl
  · simp only [State.clocks, mapperRead_cycles, mapperRead_apu, mapperRead_ppu]

theorem ppuRegWrite_clocks (r : PpuReg) (v : Byte) (s : State) : (ppuRegWrite r v s).clocks = s.clocks := by
  cases r
  case scroll =>
    show (ppuScrollWrite v s).clocks = s.clocks
    unfold ppuScrollWrite
    split <;> rfl
  case addr =>
    show (ppuAddrWrite v s).clocks = s.clocks
    unfold ppuAddrWrite
    split <;> rfl
  case data =>
    show (ppuDataWrite v s).clocks = s.clocks
    unfold ppuDataWrite ppuWrite chrWrite
    dsimp only
    split_ifs <;> rfl
  all_goals rfl

/-- A register write restarts the frame sequencer at most, never the cycle count (R461, R467). -/
theorem apu_write_cyc (a : Apu) (k : Nat) (v : Byte) : (a.write k v).cyc = a.cyc := by
  unfold Apu.write Apu.writeFrame
  dsimp only
  split_ifs <;> rfl

theorem busStore_clocks (a : Word) (v : Byte) (s : State) : (busStore a v s).clocks = s.clocks := by
  unfold busStore
  dsimp only
  split_ifs
  · rfl
  · exact ppuRegWrite_clocks _ v s
  · rfl
  · simp only [State.clocks, controllerWrite_cycles, controllerWrite_apu, controllerWrite_ppu]
  · simp only [State.clocks, apu_write_cyc]
  · rfl
  · simp only [State.clocks, mapperWrite_cycles, mapperWrite_apu, mapperWrite_ppu]

/-! ### Ticks add up -/

/-- `t` is `n` ticks after `s` by the clocks, at a legal position of the PPU. -/
def TicksLater (n : Nat) (s t : State) : Prop :=
  t.cycles = s.cycles + n ∧ t.apu.cyc = s.apu.cyc + n ∧
  t.ppu.dotsIntoFrame = (s.ppu.dotsIntoFrame + 3 * n) % 89342 ∧ t.ppu.line < 262 ∧ t.ppu.dot < 341

namespace TicksLater

variable {m n : Nat} {s t u : State}

theorem legal (h : TicksLater n s t) : t.ppu.line < 262 ∧ t.ppu.dot < 341 := h.2.2.2

theorem refl (hs : s.ppu.line < 262 ∧ s.ppu.dot < 341) : TicksLater 0 s s := by
  refine ⟨rfl, rfl, ?_, hs⟩
  rw [Ppu.dotsIntoFrame]
  omega

theorem trans (h : TicksLater m s t) (k : TicksLater n t u) : TicksLater (m + n) s u := by
  obtain ⟨hcycles, hcyc, hdots, -⟩ := h
  obtain ⟨kcycles, kcyc, kdots, klegal⟩ := k
  refine ⟨by omega, by omega, ?_, klegal⟩
  rw [kdots, hdots, Nat.mod_add_mod, Nat.add_assoc, Nat.mul_add]

/-- Whatever leaves the clocks alone takes no tick. -/
theorem of_clocks (h : TicksLater n s t) (hu : u.clocks = t.clocks) : TicksLater n s u := by
  simp only [State.clocks, Prod.mk.injEq] at hu
  obtain ⟨hcycles, hcyc, hline, hdot⟩ := hu
  rwa [TicksLater, Ppu.dotsIntoFrame, hcycles, hcyc, hline, hdot]

end TicksLater

/-- The APU's cycle count goes up by one at each of its clocks (R461). -/
theorem apu_clock_cyc (a : Apu) : a.clock.cyc = a.cyc + 1 := by
  unfold Apu.clock Apu.frameStep
  dsimp only
  split_ifs <;> rfl

theorem apuAdvance_cyc (s : State) : (apuAdvance s).apu.cyc = s.apu.cyc + 1 := by
  rw [← apu_clock_cyc]
  unfold apuAdvance sampleTimerAdvance
  dsimp only
  split_ifs <;> rfl

/-- One dot on from a legal position (R440). -/
theorem ppuAdvanceDot_dots {s : State} (hs : s.ppu.line < 262 ∧ s.ppu.dot < 341) :
    (ppuAdvanceDot s).ppu.dotsIntoFrame = (s.ppu.dotsIntoFrame + 1) % 89342 ∧
      (ppuAdvanceDot s).ppu.line < 262 ∧ (ppuAdvanceDot s).ppu.dot < 341 := by
  obtain ⟨hline, hdot⟩ := ppuAdvanceDot_position s
  rw [Ppu.dotsIntoFrame, hline, hdot]
  exact nextPos_dots hs.1 hs.2

section

variable {s : State} (hs : s.ppu.line < 262 ∧ s.ppu.dot < 341)
include hs

theorem tick_ticksLater : TicksLater 1 s (tick s) := by
  obtain ⟨h1, legal1⟩ := ppuAdvanceDot_dots (s := { s with cycles := s.cycles + 1 }) hs
  obtain ⟨h2, legal2⟩ := ppuAdvanceDot_dots legal1
  obtain ⟨h3, legal3⟩ := ppuAdvanceDot_dots legal2
  have hcyc : (tick s).apu.cyc = s.apu.cyc + 1 := by
    rw [tick, apuAdvance_cyc, ppuAdvanceDot_apu, ppuAdvanceDot_apu, ppuAdvanceDot_apu]
  rw [TicksLater, tick_cycles, hcyc, tick, apuAdvance_ppu]
  refine ⟨rfl, rfl, ?_, legal3⟩
  rw [h3, h2, Nat.mod_add_mod, h1, Nat.add_assoc, Nat.mod_add_mod]

theorem memRead_ticksLater (a : Word) : TicksLater 1 s (memRead a s).2 :=
  (tick_ticksLater hs).of_clocks (busDecodeRead_clocks a (tick s))

/-- A byte of OAM DMA takes two ticks: its read and its write (R450). -/
theorem oamDmaFrom_ticksLater (page : Byte) (n i : Nat) : TicksLater (2 * n) s (oamDmaFrom page n i s) := by
  induction n generalizing i s with
  | zero => exact .refl hs
  | succ n ih =>
    have hread := memRead_ticksLater hs (mkWord page (BitVec.ofNat 8 i))
    have hbyte := (hread.trans (tick_ticksLater hread.legal)).of_clocks
      (busStore_clocks 0x2004 (memRead (mkWord page (BitVec.ofNat 8 i)) s).1 _)
    have hall := hbyte.trans (ih hbyte.legal (i + 1))
    rwa [Nat.mul_add, Nat.add_comm]

theorem memWrite_ticksLater (a : Word) (v : Byte) : TicksLater (if a = 0x4014 then 513 else 1) s (memWrite a v s) := by
  have htick := tick_ticksLater hs
  unfold memWrite busDecodeWrite
  split_ifs
  · exact htick.trans (oamDmaFrom_ticksLater htick.legal v 256 0)
  · exact htick.of_clocks (busStore_clocks a v (tick s))

end

/-- Settles O44: of a bus access only its ticks move the clocks, and an OAM DMA is 512 more of them. -/
theorem everyAccessTicks : Obligations.EveryAccessTicks := fun _ a v hline hdot =>
  have hs := ⟨hline, hdot⟩
  ⟨tick_ticksLater hs, memRead_ticksLater hs a, memWrite_ticksLater hs a v⟩

end Sys2Proof.Machine
end

section
/-! ## The encoder and the decoder (R100 to R109, R123 to R128)

The rows of the dispatch are all of the instruction set: each row's instruction, whatever its operand bytes, encodes to
the row's opcode and those bytes, and each well-formed instruction is a row's. Both round trips follow. -/

namespace Sys2Proof

open Machine (mkWord_hi_lo loByte_mkWord hiByte_mkWord)

/-! ### From a row to its bytes -/

/-- The operand bytes of a row's format, of the two bytes that follow the opcode (R101, R109). -/
def Row.operands : Row → Byte → Byte → List Byte
  | .f1 _, _, _ => []
  | .f2 _, b1, _ => [b1]
  | .f3 _, b1, b2 => wordBytes (mkWord b2 b1)
  | .f3late _, b1, b2 => [b1, b2]

@[simp] theorem wordBytes_mkWord (hi lo : Byte) : wordBytes (mkWord hi lo) = [lo, hi] := by
  rw [wordBytes, loByte_mkWord, hiByte_mkWord]

/-- The operand bytes are the next `len - 1` ones. -/
theorem Row.operands_append_drop (r : Row) (b1 b2 : Byte) (rest : List Byte) :
    r.operands b1 b2 ++ (b1 :: b2 :: rest).drop (r.len - 1) = b1 :: b2 :: rest := by
  cases r <;> simp [Row.operands, Row.len]

/-- The map R123 against the grid R102 to R107 and the lists R124 to R126, row by row: with any operand bytes, the instruction of a row is
well-formed and encodes to the row's opcode and those bytes. -/
theorem row_wf_encode (op b1 b2 : Byte) :
    ((opcodeRow op).instr b1 b2).wf = true ∧
      encode ((opcodeRow op).instr b1 b2) = op :: (opcodeRow op).operands b1 b2 := by
  fin_cases op <;> exact ⟨rfl, rfl⟩

/-- The opcode of a row and its operand bytes decodes to the row's instruction. -/
theorem decode_row (op b1 b2 : Byte) (rest : List Byte) :
    decode (op :: ((opcodeRow op).operands b1 b2 ++ rest)) = .ok ((opcodeRow op).instr b1 b2, rest) := by
  cases h : opcodeRow op with
  | f1 i => exact decode_f1 h rest
  | f2 g => exact decode_f2 h b1 rest
  | f3 g =>
    rw [Row.operands, wordBytes_mkWord]
    exact decode_f3 h b1 b2 rest
  | f3late g => exact decode_f3late h b1 b2 rest

/-- What decodes begins with the opcode of a row and its operand bytes. -/
theorem row_of_decode {bytes rest : List Byte} {i : Instr} (h : decode bytes = .ok (i, rest)) :
    ∃ op b1 b2, (opcodeRow op).instr b1 b2 = i ∧ bytes = op :: ((opcodeRow op).operands b1 b2 ++ rest) := by
  cases bytes with
  | nil => cases h
  | cons op bytes =>
    simp only [decode] at h
    split at h
    next hrow => cases h; exact ⟨op, 0, 0, by simp [hrow, Row.instr, Row.operands]⟩
    next b1 _ hrow => cases h; exact ⟨op, b1, 0, by simp [hrow, Row.instr, Row.operands]⟩
    next b1 b2 _ hrow => cases h; exact ⟨op, b1, b2, by simp [hrow, Row.instr, Row.operands]⟩
    next b1 b2 _ hrow => cases h; exact ⟨op, b1, b2, by simp [hrow, Row.instr, Row.operands]⟩
    next => cases h

/-! ### From an instruction to its row -/

/-- The row of the instruction's opcode gives it, with some operand bytes. -/
def Instr.HasRow (i : Instr) : Prop := ∃ op, opcodeOf i = some op ∧ ∃ b1 b2, (opcodeRow op).instr b1 b2 = i

/-- The row of `f` at a memory operand of this mode (R104 to R106). -/
def Loc.row (f : Loc → Instr) : Loc → Row
  | .zp _ => .f2 fun d => f (.zp d)
  | .zpx _ => .f2 fun d => f (.zpx d)
  | .zpy _ => .f2 fun d => f (.zpy d)
  | .abs _ => .f3 fun a => f (.abs a)
  | .abx _ => .f3 fun a => f (.abx a)
  | .aby _ => .f3 fun a => f (.aby a)
  | .izx _ => .f2 fun d => f (.izx d)
  | .izy _ => .f2 fun d => f (.izy d)

/-- A row with a 16-bit operand reaches every value of it, low byte first (R109). -/
theorem hasRow_word {f : Word → Instr} {a : Word} (h : ∃ op, opcodeOf (f a) = some op ∧ opcodeRow op = .f3 f) :
    (f a).HasRow := by
  obtain ⟨op, hop, hrow⟩ := h
  exact ⟨op, hop, loByte a, hiByte a, by rw [hrow, Row.instr, mkWord_hi_lo]⟩

theorem hasRow_loc {f : Loc → Instr} (l : Loc) (h : ∃ op, opcodeOf (f l) = some op ∧ opcodeRow op = l.row f) :
    (f l).HasRow := by
  obtain ⟨op, hop, hrow⟩ := h
  cases l with
  | zp d | zpx d | zpy d | izx d | izy d => exact ⟨op, hop, d, 0, by rw [hrow]; rfl⟩
  | abs a | abx a | aby a => exact hasRow_word (f := fun a => f _) ⟨op, hop, hrow⟩

/-- Every well-formed instruction has its row: of the operand forms a mnemonic has, each is where the grid puts it. -/
theorem hasRow_of_wf {i : Instr} (h : i.wf = true) : i.HasRow := by
  cases i with
  | clc | sec | cli | sei | clv | cld | sed | tax | tay | txa | tya | tsx | txs | pha | php | pla | plp | inx | iny
  | dex | dey | nop | rts | rti | brk => exact ⟨_, rfl, 0, 0, rfl⟩
  | bpl d | bmi d | bvc d | bvs d | bcc d | bcs d | bne d | beq d => exact ⟨_, rfl, d, 0, rfl⟩
  | jmp | jmpInd | nopAbs => exact hasRow_word ⟨_, rfl, rfl⟩
  | jsr lo hi => exact ⟨_, rfl, lo, hi, rfl⟩
  | lda o | ldx o | ldy o | adc o | sbc o | cmp o | cpx o | cpy o | and o | ora o | eor o =>
    cases o with
    | imm v => exact ⟨_, rfl, v, 0, rfl⟩
    | mem l =>
      refine hasRow_loc (f := _ ∘ Src.mem) l ?_
      cases l <;> cases h <;> exact ⟨_, rfl, rfl⟩
  | asl t | lsr t | rol t | ror t =>
    cases t with
    | acc => exact ⟨_, rfl, 0, 0, rfl⟩
    | mem l =>
      refine hasRow_loc (f := _ ∘ Target.mem) l ?_
      cases l <;> cases h <;> exact ⟨_, rfl, rfl⟩
  | sta l | stx l | sty l | bit l | inc l | dec l | lax l =>
    refine hasRow_loc l ?_
    cases l <;> cases h <;> exact ⟨_, rfl, rfl⟩
  | nopImp op =>
    have hop := List.contains_iff_mem.1 h
    fin_cases hop <;> exact ⟨_, rfl, 0, 0, rfl⟩
  | nopImm op d | nopZp op d | nopZpx op d =>
    have hop := List.contains_iff_mem.1 h
    fin_cases hop <;> exact ⟨_, rfl, d, 0, rfl⟩
  | nopAbx op a =>
    have hop := List.contains_iff_mem.1 h
    fin_cases hop <;> exact hasRow_word ⟨_, rfl, rfl⟩
  | undef op => exact ⟨op, rfl, 0, 0, (row_undef op).1 (List.contains_iff_mem.1 h)⟩

/-! ### The round trips -/

/-- Settles O1: a well-formed instruction is its row's, so it encodes to the row's opcode and operand bytes, and those
decode to it. -/
theorem encodeThenDecode : Obligations.EncodeThenDecode := by
  intro i rest h
  obtain ⟨op, -, b1, b2, rfl⟩ := hasRow_of_wf h
  rw [(row_wf_encode op b1 b2).2]
  exact decode_row op b1 b2 rest

/-- Settles O2: what decodes is a row's opcode and operand bytes, which is what the row's instruction encodes to. -/
theorem decodeThenEncode : Obligations.DecodeThenEncode := by
  intro bytes i rest h
  obtain ⟨op, b1, b2, rfl, rfl⟩ := row_of_decode h
  obtain ⟨hwf, henc⟩ := row_wf_encode op b1 b2
  exact ⟨hwf, congrArg (· ++ rest) henc⟩

/-- A row gives an undefined instruction exactly at the bytes of R126, and then that of its own byte. -/
theorem row_eq_undef (op b1 b2 x : Byte) : (opcodeRow op).instr b1 b2 = .undef x ↔ x = op ∧ op ∈ undefBytes := by
  constructor
  · obtain ⟨hwf, henc⟩ := row_wf_encode op b1 b2
    intro h
    rw [h] at hwf henc
    obtain rfl : x = op := (List.cons.inj henc).1
    exact ⟨rfl, List.contains_iff_mem.1 hwf⟩
  · rintro ⟨rfl, hmem⟩
    have hzero := (row_undef x).1 hmem
    have henc := (row_wf_encode x 0 0).2
    rw [hzero] at henc
    cases hrow : opcodeRow x with
    | f1 i =>
      rw [hrow] at hzero
      exact hzero
    | f2 | f3 | f3late =>
      rw [hrow] at henc
      cases henc

/-- Settles O3: three bytes hold the operands of every row, and the rows of undefined instructions are those of R126. -/
theorem everyOpcodeByteDecodes : Obligations.EveryOpcodeByteDecodes := by
  refine ⟨rfl, by decide, fun op b1 b2 rest => ⟨(opcodeRow op).instr b1 b2, (opcodeRow op).len - 1, ?_, ?_, ?_, ?_⟩⟩
  · cases opcodeRow op <;> simp [Row.len]
  · have h := decode_row op b1 b2 ((b1 :: b2 :: rest).drop ((opcodeRow op).len - 1))
    rwa [Row.operands_append_drop] at h
  · simp [row_eq_undef]
  · simp [row_eq_undef]

/-- Settles O4: each word is the opcode of a row with its operand bytes (an operand the row has no use for is 0). -/
theorem specWordsDecode : Obligations.SpecWordsDecode :=
  ⟨decode_row 0xAA 0 0 [], decode_row 0x4C 0x34 0x12 [], decode_row 0x10 0x7F 0 [], decode_row 0xBD 0xF0 0x12 [],
    decode_row 0x91 0x20 0 [], decode_row 0x69 0x10 0 [], decode_row 0x24 0x10 0 [], decode_row 0x0A 0 0 [],
    decode_row 0xF6 0xFF 0 [], decode_row 0xA3 0x10 0 [], decode_row 0x02 0 0 []⟩

end Sys2Proof
end

section
/-! ## The step's fetches and the operands they leave (R23, R100, R112 to R118, R202) -/

namespace Sys2Proof.Machine

/-! ### Fetches from plain memory -/

theorem fetch_readsOnly (s : State) : ReadsOnly s (fetch s).2 :=
  setCpu_readsOnly (dummyRead_readsOnly s.cpu.pc s) _

/-- The address of the byte after the first one, and from there on. -/
theorem succ_add_ofNat (a : Word) (n : Nat) : a + 1 + BitVec.ofNat 16 n = a + BitVec.ofNat 16 (n + 1) := by
  rw [Nat.add_comm n 1, BitVec.ofNat_add, BitVec.add_assoc]
  rfl

theorem fetchMany_readsOnly (n : Nat) (s : State) : ReadsOnly s (fetchMany n s) := by
  induction n generalizing s with
  | zero => exact .refl s
  | succ n ih => exact (fetch_readsOnly s).trans (ih (fetch s).2)

theorem fetchMany_cpu (n : Nat) (s : State) :
    (fetchMany n s).cpu = { s.cpu with pc := s.cpu.pc + BitVec.ofNat 16 n } := by
  induction n generalizing s with
  | zero => simp [fetchMany]
  | succ n ih => rw [fetchMany, ih, fetch_cpu, ← succ_add_ofNat]

theorem fetchMany_cycles (n : Nat) (s : State) : (fetchMany n s).cycles = s.cycles + n := by
  induction n generalizing s with
  | zero => rfl
  | succ n ih => rw [fetchMany, ih, fetch_cycles, Nat.add_assoc, Nat.add_comm 1]

/-- The bytes stand at `pc`, in RAM or PRG space. -/
def BytesAtPc (bytes : List Byte) (s : State) : Prop :=
  ∀ k, k < bytes.length →
    Plain (s.cpu.pc + BitVec.ofNat 16 k) ∧ some (peek s (s.cpu.pc + BitVec.ofNat 16 k)) = bytes[k]?

section

variable {b : Byte} {bytes : List Byte} {s : State} (h : BytesAtPc (b :: bytes) s)
include h

theorem BytesAtPc.peek_pc : Plain s.cpu.pc ∧ peek s s.cpu.pc = b := by
  simpa using h 0 (by simp)

theorem BytesAtPc.fetch_byte : (fetch s).1 = b := by
  obtain ⟨hplain, hpeek⟩ := h.peek_pc
  exact (memRead_plain_value hplain s).trans hpeek

theorem BytesAtPc.tail : BytesAtPc bytes (fetch s).2 := by
  intro k hk
  have hpc : (fetch s).2.cpu.pc + BitVec.ofNat 16 k = s.cpu.pc + BitVec.ofNat 16 (k + 1) := by
    rw [fetch_cpu, succ_add_ofNat]
  obtain ⟨hplain, hpeek⟩ := h (k + 1) (Nat.succ_lt_succ hk)
  rw [hpc, (fetch_readsOnly s).bytes _ hplain]
  exact ⟨hplain, hpeek⟩

end

/-! ### The step's instruction -/

/-- How many bytes the step fetches for a row: all of them, but for JSR's last (R202). -/
def fetchedOf : Row → Nat
  | .f3late _ => 2
  | r => r.len

theorem fetchedBytes_row (op b1 b2 : Byte) : fetchedBytes ((opcodeRow op).instr b1 b2) = fetchedOf (opcodeRow op) := by
  fin_cases op <;> rfl

/-- With a row's bytes at `pc`, the step fetches as many as the row has it fetch, and gets the row's instruction. -/
theorem fetchInstr_of_bytesAtPc {op b1 b2 : Byte} {s : State}
    (h : BytesAtPc (op :: (opcodeRow op).operands b1 b2) s) :
    fetchInstr s = ((opcodeRow op).instr b1 b2, fetchMany (fetchedOf (opcodeRow op)) s) := by
  rw [fetchInstr, h.fetch_byte]
  replace h := h.tail
  cases hrow : opcodeRow op with
  | f1 i => rfl
  | f2 g =>
    rw [hrow] at h
    dsimp only
    rw [h.fetch_byte]
    rfl
  | f3 g =>
    rw [hrow, Row.operands, wordBytes_mkWord] at h
    dsimp only
    rw [h.fetch_byte, h.tail.fetch_byte]
    rfl
  | f3late g =>
    rw [hrow, Row.operands] at h
    dsimp only
    rw [h.fetch_byte, h.tail.peek_pc.2]
    rfl

/-- With a well-formed instruction's bytes at `pc`, the step fetches it (R100). -/
theorem fetchInstr_of_encode {i : Instr} (hwf : i.wf = true) {s : State} (h : BytesAtPc (encode i) s) :
    fetchInstr s = (i, fetchMany (fetchedBytes i) s) := by
  obtain ⟨op, -, b1, b2, rfl⟩ := hasRow_of_wf hwf
  rw [(row_wf_encode op b1 b2).2] at h
  rw [fetchedBytes_row]
  exact fetchInstr_of_bytesAtPc h

/-- Settles O5: the step fetches the instruction, each fetch being a read and an increment of `pc`, and executes it; no
instruction stops. -/
theorem stepRunsDecodedInstruction : Obligations.StepRunsDecodedInstruction := by
  intro s i hfault hwf hbytes
  refine ⟨fetchMany_cpu _ s, fetchMany_cycles _ s, fetchMany_readsOnly _ s, ?_⟩
  obtain ⟨t, ht, -⟩ := exec_cases i (fetchMany (fetchedBytes i) s)
  refine ⟨t, ht, ?_⟩
  rw [step, hfault, fetchInstr_of_encode hwf hbytes]
  simp [ht]

/-- Settles O7: an undefined opcode is encoded as its byte, and its meaning is to raise the fault. -/
theorem undefinedOpcodeSetsFault : Obligations.UndefinedOpcodeSetsFault := fun _ _ _ => ⟨rfl, rfl⟩

/-! ### Operands in plain memory -/

/-- Settles O35: the reads of the mode lead to the effective address and change no memory, so plain memory there gives the
byte it gave before them. -/
theorem operandInPlainMemory : Obligations.OperandInPlainMemory := by
  intro s l v
  rw [readSrc_eq (.mem l)]
  refine ⟨rfl, fun hplain => ?_, busRun_readsOnly (srcReads_reads _ s) s, busRun_cpu _ s, busRun_cycles _ s⟩
  calc (memRead (effAddr l s) (busRun (locReads .read l s) s)).1
      = peek (busRun (locReads .read l s) s) (effAddr l s) := memRead_plain_value hplain _
    _ = peek s (effAddr l s) := (busRun_readsOnly (locReads_reads .read l s) s).bytes _ hplain

end Sys2Proof.Machine
end

section
/-! ## Single-byte instructions (R22, R25, R150 to R172, R330) -/

namespace Sys2Proof.Machine

/-! ### Instructions that only read the bus -/

theorem allReads_cons (a : Word) {l : List BusOp} (h : AllReads l) : AllReads (.read a :: l) :=
  List.forall_mem_cons.2 ⟨⟨a, rfl⟩, h⟩

theorem allReads_nil : AllReads [] := List.forall_mem_nil _

theorem allReads_singleton (a : Word) : AllReads [.read a] := allReads_cons a allReads_nil

/-- An instruction that makes reads and then changes CPU registers: its ticks and its frame are those of the reads. -/
theorem exec_reads {i : Instr} {s : State} {l : List BusOp} {c : Cpu} (h : exec i s = .next ((busRun l s).setCpu c))
    (hl : AllReads l) :
    ∃ t, exec i s = .next t ∧ t = (busRun l s).setCpu c ∧ t.cycles = s.cycles + busTicks l ∧ ReadsOnly s t :=
  ⟨_, h, rfl, busRun_cycles l s, setCpu_readsOnly (busRun_readsOnly hl s) c⟩

/-- An instruction of the implied template (R150) that leaves the registers `c`. -/
theorem exec_implied {i : Instr} {s : State} {f : Cpu → Cpu} {c : Cpu} (h : exec i s = .next (implied f s))
    (hc : f s.cpu = c) :
    ∃ t, exec i s = .next t ∧ t = (busRun [.read s.cpu.pc] s).setCpu c ∧ t.cycles = s.cycles + 1 ∧ ReadsOnly s t :=
  exec_reads (by rw [h, implied_eq, hc]) (allReads_singleton _)

/-- Settles O15: each of the seven is the implied template with its one flag. -/
theorem flagInstructions : Obligations.FlagInstructions := by
  intro s r hr
  fin_cases hr <;> exact ⟨rfl, exec_implied rfl rfl⟩

/-- Settles O16: each of the six is the implied template with its move; all but TXS then set N and Z. -/
theorem transferInstructions : Obligations.TransferInstructions := by
  intro s r hr
  fin_cases hr
  on_goal 6 => exact ⟨rfl, exec_implied rfl rfl⟩
  all_goals exact ⟨rfl, exec_implied rfl (setNZ_eq _ _)⟩

/-- One up and one down modulo 256. -/
theorem ofNat_toNat_add_one (r : Byte) : BitVec.ofNat 8 (r.toNat + 1) = r + 1 := by
  apply BitVec.eq_of_toNat_eq
  rw [BitVec.toNat_ofNat, BitVec.toNat_add]
  rfl

theorem ofNat_toNat_add_255 (r : Byte) : BitVec.ofNat 8 (r.toNat + 255) = r - 1 := by
  apply BitVec.eq_of_toNat_eq
  rw [BitVec.toNat_ofNat, BitVec.toNat_sub, Nat.add_comm]
  rfl

/-- Settles O17: each of the four is the implied template with its step, then N and Z of the result. -/
theorem registerStepInstructions : Obligations.RegisterStepInstructions := by
  intro s up down r hr
  simp only [up, down, ofNat_toNat_add_one, ofNat_toNat_add_255] at hr
  fin_cases hr <;> exact ⟨rfl, exec_implied rfl (setNZ_eq _ _)⟩

/-- Settles O18: NOP and each implied unofficial NOP is its own opcode byte and means the dummy read alone. -/
theorem oneByteNops : Obligations.OneByteNops := by
  intro s r hr
  have hmeaning : encode r.1 = [r.2] ∧ exec r.1 s = .next (busRun [.read s.cpu.pc] s) := by
    obtain rfl | ⟨op, -, rfl⟩ : r = (.nop, 0xEA) ∨ ∃ op ∈ nopImpBytes, (.nopImp op, op) = r := by
      simpa using hr
    · exact ⟨rfl, rfl⟩
    · exact ⟨rfl, rfl⟩
  obtain ⟨hencode, hexec⟩ := hmeaning
  exact ⟨hencode, _, hexec, rfl, busRun_cpu _ s, busRun_cycles _ s, busRun_readsOnly (allReads_singleton _) s⟩

/-! ### Push and pull -/

/-- The push after the dummy read: one write at SP, and with canonical RAM the frame of one push (R164, R165). -/
theorem exec_push {i : Instr} {s : State} {v w : Byte} (h : exec i s = .next (push w (dummyRead s.cpu.pc s)))
    (hw : w = v) :
    ∃ t, exec i s = .next t ∧
      t = (busRun [.read s.cpu.pc, .write (stackByte s 0) v] s).setCpu { s.cpu with sp := s.cpu.sp - 1 } ∧
      t.cycles = s.cycles + 2 ∧ (Memory.wf 2048 s.ram → PushesOnly [v] s t) := by
  subst hw
  have hpush : push w (dummyRead s.cpu.pc s) =
      (busRun [.read s.cpu.pc, .write (stackByte s 0) w] s).setCpu { s.cpu with sp := s.cpu.sp - 1 } := by
    rw [push_eq_bus, stackByte_congr (s := s) (by rw [dummyRead_cpu]), dummyRead_cpu]
    rfl
  refine ⟨_, h, hpush, by rw [push_cycles, dummyRead_cycles], fun hram => ?_⟩
  rw [hpush]
  exact setCpu_pushesOnly (busRun_push_one hram.1 (allReads_singleton s.cpu.pc) allReads_nil w) _

/-- Settles O20: both push after the dummy read; the status PHP pushes is the sum of R25. -/
theorem pushInstructions : Obligations.PushInstructions := by
  intro s r hr
  fin_cases hr
  · exact ⟨rfl, exec_push rfl rfl⟩
  · exact ⟨rfl, exec_push rfl (statusForPush_eq s.cpu true)⟩

/-- The reads of a pull after the two dummy reads (R166, R167). -/
def pullReads (s : State) : List BusOp := [.read s.cpu.pc, .read (stackByte s 0), .read (stackByte s 1)]

theorem pullReads_reads (s : State) : AllReads (pullReads s) :=
  allReads_cons _ (allReads_cons _ (allReads_singleton _))

/-- The dummy reads change neither SP nor the byte above it, which the pull then gives (R166, R167). -/
theorem pullAfterDummies_eq (s : State) :
    pullAfterDummies s =
      (peek s (stackByte s 1), (busRun (pullReads s) s).setCpu { s.cpu with sp := s.cpu.sp + 1 }) := by
  have hdummies := (dummyRead_readsOnly s.cpu.pc s).trans (dummyRead_readsOnly (stackAddr s.cpu.sp) _)
  have hcpu : (dummyRead (stackAddr s.cpu.sp) (dummyRead s.cpu.pc s)).cpu = s.cpu := by simp
  have habove := stackByte_congr (congrArg Cpu.sp hcpu) 1
  refine Prod.ext ?_ ?_
  · rw [pullAfterDummies, pull_byte, habove]
    exact hdummies.bytes _ (.inl (stackByte_inRam s 1))
  · rw [pullAfterDummies, pull_eq_bus, habove, hcpu, stackAddr_eq]
    rfl

/-- The pull after the dummy reads, and a change `f` of registers by the pulled byte that leaves the registers `c`. -/
theorem exec_pull {i : Instr} {s : State} {c : Cpu} (f : Cpu → Byte → Cpu)
    (h : exec i s =
      .next ((pullAfterDummies s).2.setCpu (f (pullAfterDummies s).2.cpu (pullAfterDummies s).1)))
    (hc : f { s.cpu with sp := s.cpu.sp + 1 } (peek s (stackByte s 1)) = c) :
    ∃ t, exec i s = .next t ∧ t = (busRun (pullReads s) s).setCpu c ∧ t.cycles = s.cycles + 3 ∧ ReadsOnly s t :=
  exec_reads (by rw [h, pullAfterDummies_eq, setCpu_setCpu, setCpu_cpu, hc]) (pullReads_reads s)

/-- Settles O21: both pull after the dummy reads; PLA then sets N and Z from the byte, PLP the flags. -/
theorem pullInstructions : Obligations.PullInstructions := by
  intro s v r hr
  fin_cases hr
  · exact ⟨rfl, exec_pull (fun c m => { c with a := m }.setNZ m) rfl (setNZ_eq _ _)⟩
  · exact ⟨rfl, exec_pull Cpu.setStatus rfl (setStatus_eq _ _)⟩

/-- Pulling a pushed status byte gives the flags it was made of (R25, R28). -/
theorem withStatus_statusSum (c d : Cpu) (b : Bool) :
    d.withStatus (statusSum c b) = { d with n := c.n, v := c.v, d := c.d, i := c.i, z := c.z, c := c.c } := by
  rw [← statusForPush_eq, ← setStatus_eq, setStatus_statusForPush]

/-- Settles O22: after PHP the byte above SP is the pushed status, so PLP gets all six flags back, and SP. -/
theorem phpThenPlpRestoresFlags : Obligations.PhpThenPlpRestoresFlags := by
  intro s hram
  obtain ⟨-, t, hphp, ht, -, hframe⟩ := pushInstructions s (.php, 0x08, statusSum s.cpu true) (by simp)
  obtain ⟨-, u, hplp, hu, -, -⟩ := pullInstructions t (.plp, 0x28, _) (.tail _ (.head _))
  have hcpu : t.cpu = { s.cpu with sp := s.cpu.sp - 1 } := by rw [ht, setCpu_cpu]
  have hsp : t.cpu.sp + 1 = s.cpu.sp := by rw [hcpu, BitVec.sub_add_cancel]
  have habove : stackByte t 1 = stackByte s 0 := by
    rw [← stackAddr_eq, ← hsp]
    exact (stackAddr_add t 1).symm
  have hbyte : peek t (stackByte t 1) = statusSum s.cpu true := by
    rw [habove]
    exact Option.some.inj ((hframe hram).pushed 0 Nat.one_pos)
  refine ⟨t, u, hphp, hplp, ?_⟩
  rw [hu, setCpu_cpu, hbyte, withStatus_statusSum, hsp, hcpu]

end Sys2Proof.Machine
end

section
/-! ## Pushes and the pulls that undo them (R11, R22) -/

namespace Sys2Proof.Machine

variable {s t : State}

/-! ### Stack addresses after a change of SP -/

/-- A change of SP moves every stack address by as much, in page 1 (R22). -/
theorem stackByte_shift {n : Int} (h : t.cpu.sp = s.cpu.sp + BitVec.ofInt 8 n) (k : Int) :
    stackByte t k = stackByte s (n + k) := by
  apply BitVec.eq_of_toNat_eq
  rw [toNat_stackByte, toNat_stackByte, h, BitVec.toNat_add, BitVec.toNat_ofInt]
  omega

theorem pushBus_congr (h : t.cpu.sp = s.cpu.sp) (vs : List Byte) : pushBus t vs = pushBus s vs := by
  simp only [pushBus, stackByte_congr h]

/-! ### Ticks of pushes -/

theorem busTicks_append (l m : List BusOp) : busTicks (l ++ m) = busTicks l + busTicks m := by
  rw [busTicks, List.map_append, List.sum_append, busTicks, busTicks]

/-- A push is one tick: no stack address is that of the OAM DMA (R63). -/
theorem ticks_stackWrite (s : State) (k : Int) (v : Byte) : (BusOp.write (stackByte s k) v).ticks = 1 := by
  have hdma : stackByte s k ≠ 0x4014 := fun h =>
    absurd (h ▸ stackByte_inRam s k : InRam 0x4014) (Nat.not_lt.2 (by decide))
  rw [BusOp.ticks, if_neg hdma]

theorem busTicks_pushBus (s : State) (vs : List Byte) : busTicks (pushBus s vs) = vs.length := by
  simp [busTicks, pushBus, Function.comp_def, ticks_stackWrite]

/-! ### A word pushed and pulled -/

/-- With SP below the pushed bytes, a read `j` above it gives the byte pushed `j` before the end. -/
theorem PushesOnly.peek_above {vs : List Byte} (h : PushesOnly vs s t)
    (hsp : t.cpu.sp = s.cpu.sp - BitVec.ofNat 8 vs.length) {k : Nat} {v : Byte} (hv : vs[k]? = some v) {j : Int}
    (hj : j + k = vs.length) : peek t (stackByte t j) = v := by
  have hshift : t.cpu.sp = s.cpu.sp + BitVec.ofInt 8 (-(vs.length : Int)) := by
    rw [hsp, BitVec.sub_eq_add_neg, BitVec.ofInt_neg, BitVec.ofInt_natCast]
  have haddr : stackByte t j = stackByte s (-(k : Int)) := by
    rw [stackByte_shift hshift, ← hj, Int.neg_add, Int.add_right_comm, Int.add_left_neg, Int.zero_add]
  have hk : k < vs.length := (List.getElem?_eq_some_iff.1 hv).1
  exact Option.some.inj (haddr ▸ (h.pushed k hk).trans hv)

theorem pushWord_pushesOnly (h : Rising s.ram) (w : Word) : PushesOnly [hiByte w, loByte w] s (pushWord w s) := by
  rw [pushWord_eq]
  exact setCpu_pushesOnly (busRun_push_two h allReads_nil allReads_nil _ _) _

/-- SP goes down by one at each push (R11). -/
theorem sp_sub_two (p : Byte) : p - 1 - 1 = p - 2 := BitVec.sub_sub p 1 1

theorem sp_sub_three (p : Byte) : p - 1 - 1 - 1 = p - 3 := by
  rw [sp_sub_two]
  exact BitVec.sub_sub p 1 2

theorem pushWord_sp (w : Word) (s : State) : (pushWord w s).cpu.sp = s.cpu.sp - 2 := by
  rw [pushWord_cpu, sp_sub_two]

/-- Settles O23: with SP below it the pushed word is the two bytes above SP, which the pull reads. -/
theorem pushWordThenPullWord : Obligations.PushWordThenPullWord := by
  intro w s hram
  have hframe := pushWord_pushesOnly hram.1 w
  have hsp := pushWord_sp w s
  refine ⟨?_, ?_, hsp, hframe⟩
  · rw [pullWord_word, hframe.peek_above hsp (k := 0) rfl rfl, hframe.peek_above hsp (k := 1) rfl rfl, mkWord_hi_lo]
  · simp only [pullWord_cpu, pushWord_cpu, BitVec.sub_add_cancel]

end Sys2Proof.Machine
end

section
/-! ## Jumps, calls and returns (R200 to R204, R420) -/

namespace Sys2Proof.Machine

variable {s : State}

/-! ### Jumps -/

/-- The pointer's second byte is in the page of its first (R119, R201). -/
theorem pointerHigh_eq (p : Word) : mkWord (hiByte p) (loByte p + 1) = pointerHigh p := by
  apply BitVec.eq_of_toNat_eq
  have hp := p.isLt
  have hlow : (loByte p + 1).toNat = (p.toNat + 1) % 256 := by
    rw [BitVec.toNat_add, toNat_loByte]
    exact Nat.mod_add_mod ..
  rw [pointerHigh, toNat_mkWord, hlow, toNat_hiByte, BitVec.toNat_ofNat]
  omega

/-- What plain memory gives after some reads is what stood there before them (R77). -/
theorem memRead_plain_afterReads {a : Word} (h : Plain a) {l : List BusOp} (hl : AllReads l) (s : State) :
    (memRead a (busRun l s)).1 = peek s a := by
  rw [memRead_plain_value h]
  exact (busRun_readsOnly hl s).bytes a h

/-- Settles O24: JMP moves `pc` alone; JMP indirect is the two reads of its pointer, then the move of `pc`. -/
theorem jmpInstructions : Obligations.JmpInstructions := by
  refine ⟨fun s a => ⟨rfl, s.setPc a, rfl, rfl, setCpu_readsOnly (.refl s) _⟩, fun s p => ⟨rfl, ?_⟩⟩
  refine ⟨fun h => memRead_plain_value h s, fun h => memRead_plain_afterReads h (allReads_singleton p) s, ?_⟩
  refine exec_reads ?_ (allReads_cons p (allReads_singleton (pointerHigh p)))
  simp only [exec, execJmpInd, pointerHigh_eq, setPc_eq, memRead_cpu]
  rfl

/-! ### Calls -/

/-- Accesses leave the CPU registers as they are. -/
theorem busRun_setCpu_same (l : List BusOp) (s : State) : (busRun l s).setCpu s.cpu = busRun l s :=
  congrArg (busRun l s).setCpu (busRun_cpu l s).symm

/-- Pushing a word after some accesses that left SP: the two writes stand where they would have before them. -/
theorem pushWord_afterBus (l : List BusOp) (w : Word) (s : State) :
    pushWord w (busRun l s) =
      (busRun (l ++ pushBus s [hiByte w, loByte w]) s).setCpu { s.cpu with sp := s.cpu.sp - 2 } := by
  rw [pushWord_eq, pushBus_congr (congrArg Cpu.sp (busRun_cpu l s)), busRun_cpu, busRun_append, sp_sub_two]

/-- A write to RAM leaves the other bytes of plain memory (R65, R66, R72). -/
theorem peek_memWrite_other {a b : Word} (ha : Plain a) (hb : InRam b) (hne : ¬(InRam a ∧ SameRamByte a b)) (v : Byte)
    (s : State) : peek (memWrite b v s) a = peek s a := by
  rw [memWrite_inRam hb]
  obtain ha | ha := ha
  · have hkey : a.toNat % 0x800 ≠ b.toNat % 0x800 := fun h => hne ⟨ha, h⟩
    rw [peek_ram _ ha, peek_ram _ ha, ramSet]
    exact (memGet_memSet_other _ hkey v).trans (congrArg (memGet · _) (tick_ram s))
  · rw [peek_inRom ha, peek_inRom ha, prgRead, prgRead, ramSet, tick_cfg, tick_mapper]

/-- Settles O25: a dummy read, the two pushes, and the read of the byte at `pc`, which is the old one where no push has
gone. -/
theorem jsrPushesAndJumps : Obligations.JsrPushesAndJumps := by
  refine fun s lo hi => ⟨rfl, ?_⟩
  intro pushes high
  have hexec : exec (.jsr lo hi) s =
      .next ((busRun (pushes ++ [.read s.cpu.pc]) s).setCpu { s.cpu with sp := s.cpu.sp - 2, pc := mkWord high lo }) := by
    have hpush : pushWord s.cpu.pc (dummyRead (stackByte s 0) s) = _ :=
      pushWord_afterBus [.read (stackByte s 0)] s.cpu.pc s
    simp only [exec, execJsr, stackAddr_eq, hpush, memRead_setCpu, setPc_eq, setCpu_setCpu, setCpu_cpu, busRun_append _ [_]]
    rfl
  refine ⟨fun hplain hkept => ?_, _, hexec, rfl, ?_, fun hram => ?_⟩
  · have hother (k : Nat) (hk : k < 2) : ¬(InRam s.cpu.pc ∧ SameRamByte s.cpu.pc (stackByte s (-(k : Int)))) :=
      fun ⟨hpc, hsame⟩ => hkept ⟨hpc, k, hk, hsame⟩
    calc high = peek (busRun pushes s) s.cpu.pc := memRead_plain_value hplain _
      _ = peek (memWrite (stackByte s 0) (hiByte s.cpu.pc) (dummyRead (stackByte s 0) s)) s.cpu.pc :=
        peek_memWrite_other hplain (stackByte_inRam s _) (hother 1 (by decide)) _ _
      _ = peek (dummyRead (stackByte s 0) s) s.cpu.pc :=
        peek_memWrite_other hplain (stackByte_inRam s _) (hother 0 (by decide)) _ _
      _ = peek s s.cpu.pc := (dummyRead_readsOnly _ s).bytes _ hplain
  · rw [setCpu_cycles, busRun_cycles, busTicks_append, busTicks_append, busTicks_pushBus]
    rfl
  · exact setCpu_pushesOnly (busRun_push_two hram.1 (allReads_singleton _) (allReads_singleton _) _ _) _

/-! ### Returns -/

/-- Pulling a word after some reads, SP having gone up by `n`: the word that stood there before the reads (R203, R204). -/
theorem pullWord_afterReads {l : List BusOp} (hl : AllReads l) {c : Cpu} {n : Int}
    (hsp : c.sp = s.cpu.sp + BitVec.ofInt 8 n) :
    pullWord ((busRun l s).setCpu c) =
      (mkWord (peek s (stackByte s (n + 2))) (peek s (stackByte s (n + 1))),
        (busRun (l ++ [.read (stackByte s (n + 1)), .read (stackByte s (n + 2))]) s).setCpu { c with sp := c.sp + 2 }) := by
  have haddr (k : Int) : stackByte ((busRun l s).setCpu c) k = stackByte s (n + k) := stackByte_shift hsp k
  have hpeek (k : Int) : peek ((busRun l s).setCpu c) (stackByte s k) = peek s (stackByte s k) := by
    rw [setCpu_peek]
    exact (busRun_readsOnly hl s).bytes _ (.inl (stackByte_inRam s k))
  have htwo : c.sp + 1 + 1 = c.sp + 2 := BitVec.add_assoc c.sp 1 1
  refine Prod.ext ?_ ?_
  · rw [pullWord_word, haddr, haddr, hpeek, hpeek]
  · rw [pullWord_eq, haddr, haddr, busRun_setCpu, setCpu_setCpu, setCpu_cpu, busRun_append, htwo]

/-- Settles O26: after the two dummy reads the pull gives the word above SP, where the last dummy read goes. -/
theorem rtsReturnsPastWord : Obligations.RtsReturnsPastWord := by
  refine fun s => ⟨rfl, ?_⟩
  intro w
  have hpull : pullWord (dummyRead (stackAddr s.cpu.sp) (dummyRead s.cpu.pc s)) =
      (w, (busRun (pullReads s ++ [.read (stackByte s 2)]) s).setCpu { s.cpu with sp := s.cpu.sp + 2 }) := by
    have h := pullWord_afterReads (n := 0) (allReads_cons s.cpu.pc (allReads_singleton (stackByte s 0)))
      (BitVec.add_zero s.cpu.sp).symm
    rw [busRun_setCpu_same] at h
    rw [stackAddr_eq]
    exact h
  refine exec_reads ?_ (List.forall_mem_append.2 ⟨pullReads_reads s, allReads_cons _ (allReads_singleton w)⟩)
  simp only [exec, execRts, hpull, dummyRead_setCpu, setPc_eq, setCpu_setCpu, setCpu_cpu]
  rfl

/-- Settles O27: JSR pushed its `pc`, so RTS pulls that word and goes to the one after it. -/
theorem jsrThenRtsReturns : Obligations.JsrThenRtsReturns := by
  intro s lo hi hram
  obtain ⟨-, -, t, hjsr, ht, -, hframe⟩ := jsrPushesAndJumps s lo hi
  obtain ⟨-, u, hrts, hu, -⟩ := rtsReturnsPastWord t
  have hcpu := congrArg State.cpu ht
  rw [setCpu_cpu] at hcpu
  have hsp : t.cpu.sp = s.cpu.sp - 2 := congrArg Cpu.sp hcpu
  refine ⟨t, u, hjsr, hrts, ?_⟩
  rw [hu, setCpu_cpu, (hframe hram).peek_above hsp (k := 0) rfl rfl, (hframe hram).peek_above hsp (k := 1) rfl rfl,
    mkWord_hi_lo, hcpu, BitVec.sub_add_cancel]

/-- The return from an interrupt pulls as PLP does, takes the flags, and pulls the word that goes to `pc` (R204, R420). -/
theorem returnFromInterrupt_eq (s : State) :
    returnFromInterrupt s =
      let p := pullAfterDummies s
      let w := pullWord (p.2.setCpu (p.2.cpu.setStatus p.1))
      w.2.setPc w.1 := rfl

/-- Settles O28: RTI is the pull of PLP, then the pull of a word, which goes to `pc` as it is. -/
theorem rtiRestoresFlagsAndPc : Obligations.RtiRestoresFlagsAndPc := by
  refine fun s => ⟨rfl, ?_⟩
  intro w
  have hpull := pullWord_afterReads (c := { s.cpu with sp := s.cpu.sp + 1 }.setStatus (peek s (stackByte s 1))) (n := 1)
    (pullReads_reads s) rfl
  have hsp : s.cpu.sp + 1 + 2 = s.cpu.sp + 3 := BitVec.add_assoc s.cpu.sp 1 2
  have hrti : returnFromInterrupt s =
      (busRun (pullReads s ++ [.read (stackByte s 2), .read (stackByte s 3)]) s).setCpu
        ({ s.cpu with sp := s.cpu.sp + 3, pc := w }.withStatus (peek s (stackByte s 1))) := by
    rw [← setStatus_eq, ← hsp]
    rw [returnFromInterrupt_eq, pullAfterDummies_eq]
    dsimp only [setCpu_cpu, setCpu_setCpu]
    rw [hpull]
    rfl
  exact exec_reads (congrArg _ hrti)
    (List.forall_mem_append.2 ⟨pullReads_reads s, allReads_cons _ (allReads_singleton _)⟩)

end Sys2Proof.Machine
end

section
/-! ## Interrupt entry and return (R205, R416, R417, R420) -/

namespace Sys2Proof.Machine

/-- An interrupt's entry after some reads that left SP, through a vector in PRG space: neither the pushes' places nor the
vector's bytes depend on the reads (R205, R416). -/
theorem takeInterrupt_afterReads {s : State} {l : List BusOp} (hl : AllReads l) {c : Cpu} (hsp : c.sp = s.cpu.sp)
    {v : Word} (h : InRom v) (h1 : InRom (v + 1)) (b : Bool) :
    takeInterrupt b v ((busRun l s).setCpu c) =
      (busRun (l ++ pushBus s [hiByte c.pc, loByte c.pc, statusSum c b] ++ [.read v, .read (v + 1)]) s).setCpu
        { c with sp := c.sp - 3, pc := mkWord (peek s (v + 1)) (peek s v), i := true } := by
  have hpeek (a : Word) (ha : InRom a) : peek ((busRun l s).setCpu c) a = peek s a :=
    (setCpu_readsOnly (busRun_readsOnly hl s) c).bytes a (.inr ha)
  have hpushes (vs : List Byte) : pushBus ((busRun l s).setCpu c) vs = pushBus s vs := pushBus_congr hsp vs
  rw [takeInterrupt_eq h h1, peekWord, hpeek _ h, hpeek _ h1, setCpu_cpu, hpushes, statusForPush_eq, busRun_setCpu,
    setCpu_setCpu, List.append_assoc, busRun_append l, sp_sub_three]

/-- Settles O29: the fetch of the padding byte, then the interrupt's entry. -/
theorem brkEntersThroughVector : Obligations.BrkEntersThroughVector := by
  refine fun s => ⟨rfl, ?_⟩
  intro pc2 bytes
  have hfetch : (fetch s).2 = (busRun [.read s.cpu.pc] s).setCpu { s.cpu with pc := pc2 } := by
    simp only [fetch, setPc_eq, memRead_cpu]
    rfl
  have hrom : InRom 0xFFFE ∧ InRom (0xFFFE + 1) := by
    unfold InRom
    decide
  have hexec : exec .brk s =
      .next ((busRun ([.read s.cpu.pc] ++ pushBus s bytes ++ [.read 0xFFFE, .read 0xFFFF]) s).setCpu
        { s.cpu with sp := s.cpu.sp - 3, pc := mkWord (peek s 0xFFFF) (peek s 0xFFFE), i := true }) := by
    have hentry := takeInterrupt_afterReads (s := s) (c := { s.cpu with pc := pc2 }) (allReads_singleton s.cpu.pc) rfl
      hrom.1 hrom.2 true
    rw [exec, execBrk, hfetch, hentry]
    rfl
  refine ⟨_, hexec, rfl, ?_, fun hram => ?_⟩
  · rw [setCpu_cycles, busRun_cycles, busTicks_append, busTicks_append, busTicks_pushBus]
    rfl
  · exact setCpu_pushesOnly
      (busRun_push_three hram.1 (allReads_singleton _) (allReads_cons _ (allReads_singleton _)) _ _ _) _

/-- An interrupt's entry pushes `pc` and the status and stores nothing else, whatever its vector (R205, R416). -/
theorem takeInterrupt_pushesOnly {s : State} (h : Rising s.ram) (b : Bool) (v : Word) :
    PushesOnly [hiByte s.cpu.pc, loByte s.cpu.pc, statusSum s.cpu b] s (takeInterrupt b v s) := by
  rw [← statusForPush_eq]
  have hpush := busRun_push_three h allReads_nil allReads_nil (hiByte s.cpu.pc) (loByte s.cpu.pc) (s.cpu.statusForPush b)
  have hvector (t : State) : ReadsOnly t (readVector v t).2 :=
    busRun_readsOnly (allReads_cons v (allReads_singleton (v + 1))) t
  rw [takeInterrupt, pushThree_eq]
  exact setCpu_pushesOnly ((setCpu_pushesOnly hpush _).then_reads (hvector _)) _

/-- Settles O31: RTI pulls the status the entry pushed, then the `pc` it pushed, and SP is back where it was. -/
theorem rtiUndoesInterruptEntry : Obligations.RtiUndoesInterruptEntry := by
  intro s b v hram
  have hframe := takeInterrupt_pushesOnly hram.1 b v
  have hcpu := takeInterrupt_cpu b v s
  obtain ⟨-, u, hrti, hu, -⟩ := rtiRestoresFlagsAndPc (takeInterrupt b v s)
  have hsp : (takeInterrupt b v s).cpu.sp = s.cpu.sp - 3 := by
    rw [hcpu, sp_sub_three]
  refine ⟨u, hrti, ?_⟩
  rw [hu, setCpu_cpu, hframe.peek_above hsp (k := 0) rfl rfl, hframe.peek_above hsp (k := 1) rfl rfl,
    hframe.peek_above hsp (k := 2) rfl rfl, mkWord_hi_lo, withStatus_statusSum, hsp, BitVec.sub_add_cancel, hcpu]

end Sys2Proof.Machine
end

section
/-! ## Conditional branches (R220 to R228) -/

namespace Sys2Proof.Machine

/-- A branch ticks once for each of its dummy reads: none, one, or two across a page (R220). -/
theorem busTicks_branchReads (taken : Bool) (d : Byte) (s : State) :
    busTicks (branchReads taken d s) = branchTicks taken d s := by
  cases taken with
  | false => rfl
  | true =>
    simp only [branchReads, branchTicks, if_true]
    split_ifs <;> rfl

/-- An instruction of the branch template (R220) whose condition is `taken`. -/
theorem exec_branch {i : Instr} {s : State} {taken : Bool} {d : Byte} (h : exec i s = .next (branch taken d s)) :
    ∃ t, exec i s = .next t ∧
      t = (busRun (branchReads taken d s) s).setCpu { s.cpu with pc := if taken then branchTarget d s else s.cpu.pc } ∧
      t.cycles = s.cycles + branchTicks taken d s ∧ ReadsOnly s t := by
  rw [branch_eq] at h
  rw [← busTicks_branchReads]
  exact exec_reads h (branchReads_reads taken d s)

/-- Settles O32: each of the eight is the branch template with its flag and polarity. -/
theorem conditionalBranches : Obligations.ConditionalBranches := by
  intro s d r hr
  fin_cases hr <;> exact ⟨rfl, exec_branch rfl⟩

end Sys2Proof.Machine
end

section
/-! ## Loads and stores (R240 to R245, R336) -/

namespace Sys2Proof.Machine

/-- An instruction of the read-kind template (R112 to R118) that leaves the registers `c`. -/
theorem exec_withOperand {i : Instr} {s : State} {o : Src} {f : Cpu → Byte → Cpu} {c : Cpu}
    (h : exec i s = .next (withOperand f o s)) (hc : f s.cpu (srcByte o s) = c) :
    ∃ t, exec i s = .next t ∧ t = (busRun (srcReads o s) s).setCpu c ∧
      t.cycles = s.cycles + busTicks (srcReads o s) ∧ ReadsOnly s t :=
  exec_reads (by rw [h, withOperand_eq, hc]) (srcReads_reads o s)

/-- An instruction of the write-kind template (R113 to R118) that stores `v`. -/
theorem exec_storeLoc {i : Instr} {s : State} {l : Loc} {v : Byte} (h : exec i s = .next (storeLoc l v s)) :
    ∃ t, exec i s = .next t ∧ t = busRun (storeBus l v s) s ∧ t.cpu = s.cpu ∧
      t.cycles = s.cycles + busTicks (storeBus l v s) ∧
      (Memory.wf 2048 s.ram → StoresOnly (effAddr l s) v s t) := by
  rw [storeLoc_eq] at h
  exact ⟨_, h, rfl, busRun_cpu _ s, busRun_cycles _ s, fun hram => storeBus_storesOnly hram.1 l v⟩

/-- Settles O33: each load is the read-kind template with its register, then N and Z of the byte. -/
theorem loadInstructions : Obligations.LoadInstructions := by
  refine ⟨rfl, rfl, rfl, rfl, ?_⟩
  intro s o l m ml r hr
  fin_cases hr <;> exact exec_withOperand rfl (setNZ_eq _ _)

/-- Settles O34: each store is the write-kind template with its register. -/
theorem storeInstructions : Obligations.StoreInstructions := by
  refine ⟨rfl, rfl, rfl, ?_⟩
  intro s l r hr
  fin_cases hr <;> exact exec_storeLoc rfl

end Sys2Proof.Machine
end

section
/-! ## Arithmetic and compares (R260 to R264) -/

namespace Sys2Proof.Machine

/-- ADC's registers in one record, V the signed overflow of the sum (R260). -/
theorem adc_eq (c : Cpu) (m : Byte) :
    let sum := c.a.toNat + m.toNat + c.c.toNat
    let signed := c.a.toInt + m.toInt + c.c.toNat
    let r : Byte := BitVec.ofNat 8 sum
    c.adc m =
      { c with a := r, c := decide (255 < sum), v := decide (signed < -128 ∨ 127 < signed) }.withNZ r := by
  intro sum signed r
  rw [← setNZ_eq, ← adc_overflow]
  rfl

/-- SBC's registers in one record, V the signed overflow of the difference (R261). -/
theorem sbc_eq (c : Cpu) (m : Byte) :
    let borrow : Int := 1 - c.c.toNat
    let diff : Int := c.a.toNat - m.toNat - borrow
    let signed := c.a.toInt - m.toInt - borrow
    let r : Byte := BitVec.ofInt 8 diff
    c.sbc m =
      { c with a := r, c := decide (0 ≤ diff), v := decide (signed < -128 ∨ 127 < signed) }.withNZ r := by
  intro borrow diff signed r
  rw [← setNZ_eq, ← sbc_overflow]
  rfl

/-- A compare's registers: C, Z and N by the values of the two bytes, all else as before (R262). -/
theorem compare_eq (c : Cpu) (r m : Byte) :
    c.compare r m =
      { c with
        c := decide (m.toNat ≤ r.toNat)
        z := decide (r.toNat = m.toNat)
        n := decide (128 ≤ (r.toNat + 256 - m.toNat) % 256) } := by
  have hz : (r == m) = decide (r.toNat = m.toNat) := by
    rw [beq_eq_decide, decide_eq_decide, BitVec.toNat_inj]
  rw [Cpu.compare, compare_negative, hz]

/-- Settles O36: ADC is the read-kind template with the sum. -/
theorem adcAddsWithCarry : Obligations.AdcAddsWithCarry :=
  ⟨rfl, fun s o => exec_withOperand rfl (adc_eq s.cpu (srcByte o s))⟩

/-- Settles O37: SBC is the read-kind template with the difference. -/
theorem sbcSubtractsWithBorrow : Obligations.SbcSubtractsWithBorrow :=
  ⟨rfl, fun s o => exec_withOperand rfl (sbc_eq s.cpu (srcByte o s))⟩

/-- Settles O38: each compare is the read-kind template with its register. -/
theorem compareInstructions : Obligations.CompareInstructions := by
  refine ⟨rfl, rfl, rfl, ?_⟩
  intro s o m r hr
  fin_cases hr <;> exact exec_withOperand rfl (compare_eq _ _ _)

end Sys2Proof.Machine
end

section
/-! ## Logic and BIT (R280 to R283) -/

namespace Sys2Proof.Machine

/-- An instruction of the read-kind template that leaves in A the byte `g A m`, which works bit by bit as `f`, then sets
N and Z of it (R280 to R282). -/
theorem exec_bitwise {i : Instr} {s : State} {o : Src} {g : Byte → Byte → Byte} {f : Bool → Bool → Bool}
    (h : exec i s = .next (withOperand (fun c m => { c with a := g c.a m }.setNZ (g c.a m)) o s))
    (hbits : ∀ (a m : Byte) (k : Nat), (g a m).getLsbD k = f (a.getLsbD k) (m.getLsbD k)) :
    ∃ t v, exec i s = .next t ∧ (∀ k, k < 8 → v.getLsbD k = f (s.cpu.a.getLsbD k) ((srcByte o s).getLsbD k)) ∧
      t = (busRun (srcReads o s) s).setCpu ({ s.cpu with a := v }.withNZ v) ∧
      t.cycles = s.cycles + busTicks (srcReads o s) ∧ ReadsOnly s t := by
  obtain ⟨t, hexec, hrest⟩ := exec_withOperand h (setNZ_eq _ _)
  exact ⟨t, _, hexec, fun k _ => hbits _ _ k, hrest⟩

/-- Settles O39: each of the three is the read-kind template with its bitwise operation. -/
theorem logicInstructions : Obligations.LogicInstructions := by
  refine ⟨rfl, rfl, rfl, ?_⟩
  intro s o r hr
  fin_cases hr
  · exact exec_bitwise rfl fun _ _ _ => BitVec.getLsbD_and
  · exact exec_bitwise rfl fun _ _ _ => BitVec.getLsbD_or
  · exact exec_bitwise rfl fun _ _ _ => BitVec.getLsbD_xor

/-- Bit 6 of a byte, by its value. -/
theorem bit6_eq (b : Byte) : b.getLsbD 6 = decide (64 ≤ b.toNat % 128) := by
  revert b
  decide

/-- BIT's flags by the values of the bytes: Z of the AND, N and V of the memory byte, all else as before (R283). -/
theorem bitTest_eq (c : Cpu) (m : Byte) :
    c.bitTest m =
      { c with
        z := decide ((c.a &&& m).toNat = 0)
        n := decide (128 ≤ m.toNat)
        v := decide (64 ≤ m.toNat % 128) } := by
  have hz : (c.a &&& m == 0) = decide ((c.a &&& m).toNat = 0) := by
    rw [beq_eq_decide, decide_eq_decide, ← BitVec.toNat_inj]
    rfl
  rw [Cpu.bitTest, hz, bit7_eq, bit6_eq]

/-- Settles O40: BIT is the read-kind template with its three flags. -/
theorem bitTest : Obligations.BitTest :=
  ⟨rfl, rfl, fun s l => exec_withOperand rfl (bitTest_eq s.cpu (srcByte (.mem l) s))⟩

end Sys2Proof.Machine
end

section
/-! ## Shifts, increments and decrements (R300 to R305) -/

namespace Sys2Proof.Machine

/-! ### The byte and the carry, by their values -/

/-- Bit 0 of a byte, by its value. -/
theorem bit0_eq (b : Byte) : b.getLsbD 0 = decide (b.toNat % 2 = 1) := by
  rw [BitVec.getLsbD, Nat.testBit_zero]

/-- ASL doubles, and bit 7 goes to the carry (R300). -/
theorem aslByte_eq (c : Cpu) (b : Byte) :
    c.aslByte b = ⟨BitVec.ofNat 8 (2 * b.toNat), decide (128 ≤ b.toNat)⟩ := by
  have hnew : b <<< 1 = BitVec.ofNat 8 (2 * b.toNat) := by
    apply BitVec.eq_of_toNat_eq
    rw [BitVec.toNat_shiftLeft, BitVec.toNat_ofNat, Nat.shiftLeft_eq, Nat.mul_comm]
  rw [Cpu.aslByte, hnew, bit7_eq]

/-- LSR halves, and bit 0 goes to the carry (R301). -/
theorem lsrByte_eq (c : Cpu) (b : Byte) :
    c.lsrByte b = ⟨BitVec.ofNat 8 (b.toNat / 2), decide (b.toNat % 2 = 1)⟩ := by
  have hnew : b >>> 1 = BitVec.ofNat 8 (b.toNat / 2) := by
    apply BitVec.eq_of_toNat_eq
    rw [BitVec.toNat_ushiftRight, BitVec.toNat_ofNat, Nat.shiftRight_one]
    omega
  rw [Cpu.lsrByte, hnew, bit0_eq]

/-- ROL doubles with the carry coming in at bit 0 (R302). -/
theorem rolByte_eq (c : Cpu) (b : Byte) :
    c.rolByte b = ⟨BitVec.ofNat 8 (2 * b.toNat + c.c.toNat), decide (128 ≤ b.toNat)⟩ := by
  have hnew : b.setWidth 7 ++ BitVec.ofBool c.c = BitVec.ofNat 8 (2 * b.toNat + c.c.toNat) := by
    generalize c.c = carry
    revert carry b
    decide
  rw [Cpu.rolByte, hnew, bit7_eq]

/-- ROR halves with the carry coming in at bit 7 (R303). -/
theorem rorByte_eq (c : Cpu) (b : Byte) :
    c.rorByte b = ⟨BitVec.ofNat 8 (b.toNat / 2 + 128 * c.c.toNat), decide (b.toNat % 2 = 1)⟩ := by
  have hnew : BitVec.ofBool c.c ++ b.extractLsb' 1 7 = BitVec.ofNat 8 (b.toNat / 2 + 128 * c.c.toNat) := by
    generalize c.c = carry
    revert carry b
    decide
  rw [Cpu.rorByte, hnew, bit0_eq]

/-- INC goes one up modulo 256 (R304). -/
theorem incByte_eq (c : Cpu) (b : Byte) : c.incByte b = ⟨BitVec.ofNat 8 (b.toNat + 1), c.c⟩ := by
  rw [Cpu.incByte, ofNat_toNat_add_one]

/-- DEC goes one down modulo 256 (R305). -/
theorem decByte_eq (c : Cpu) (b : Byte) : c.decByte b = ⟨BitVec.ofNat 8 (b.toNat + 255), c.c⟩ := by
  rw [Cpu.decByte, ofNat_toNat_add_255]

/-- The flags of a modified byte: C its carry, N and Z of its value. -/
theorem setModified_eq (c : Cpu) (m : Modified) : c.setModified m = { c with c := m.carry }.withNZ m.new := by
  rw [Cpu.setModified, setNZ_eq]

/-! ### The two forms -/

/-- An instruction of the read-modify-write template: its accesses, its flags, and with canonical RAM the frame of one
store. -/
theorem exec_modifyLoc {i : Instr} {s : State} {l : Loc} {f : Cpu → Byte → Modified} {new : Byte} {carry : Bool}
    (h : exec i s = .next (modifyLoc f l s)) (hf : f s.cpu (oldByte l s) = ⟨new, carry⟩) :
    ∃ t, exec i s = .next t ∧
      t = (busRun (modifyBus l new s) s).setCpu ({ s.cpu with c := carry }.withNZ new) ∧
      t.cycles = s.cycles + busTicks (modifyBus l new s) ∧
      (Memory.wf 2048 s.ram → StoresOnly (effAddr l s) new s t) := by
  rw [modifyLoc_eq, hf, setModified_eq] at h
  exact ⟨_, h, rfl, busRun_cycles _ s, fun hram => setCpu_storesOnly (modifyBus_storesOnly hram.1 l new) _⟩

/-- An instruction of the accumulator form (R111): the dummy read, then the byte in A and its flags. -/
theorem exec_modifyAcc {i : Instr} {s : State} {f : Cpu → Byte → Modified} {new : Byte} {carry : Bool}
    (h : exec i s = .next (modifyAcc f s)) (hf : f s.cpu s.cpu.a = ⟨new, carry⟩) :
    ∃ t, exec i s = .next t ∧
      t = (busRun [.read s.cpu.pc] s).setCpu ({ s.cpu with a := new, c := carry }.withNZ new) ∧
      t.cycles = s.cycles + 1 ∧ ReadsOnly s t :=
  exec_reads (by rw [h, modifyAcc_eq, hf, setModified_eq]) (allReads_singleton _)

/-- Settles O42: each of the four is the read-modify-write of its target with its byte and carry. -/
theorem shiftInstructions : Obligations.ShiftInstructions := by
  refine ⟨rfl, rfl, rfl, rfl, ?_⟩
  intro s l c r hr
  fin_cases hr
  · exact ⟨exec_modifyAcc rfl (aslByte_eq _ _), exec_modifyLoc rfl (aslByte_eq _ _)⟩
  · exact ⟨exec_modifyAcc rfl (lsrByte_eq _ _), exec_modifyLoc rfl (lsrByte_eq _ _)⟩
  · exact ⟨exec_modifyAcc rfl (rolByte_eq _ _), exec_modifyLoc rfl (rolByte_eq _ _)⟩
  · exact ⟨exec_modifyAcc rfl (rorByte_eq _ _), exec_modifyLoc rfl (rorByte_eq _ _)⟩

/-- Settles O43: both are the read-modify-write template with a step of one, which leaves the carry. -/
theorem incDecInstructions : Obligations.IncDecInstructions := by
  refine ⟨rfl, rfl, ?_⟩
  intro s l r hr
  fin_cases hr
  · exact exec_modifyLoc rfl (incByte_eq _ _)
  · exact exec_modifyLoc rfl (decByte_eq _ _)

end Sys2Proof.Machine
end

section
/-! ## Two states that differ in the APU alone, through a step (R460)

Each named operation of a step gives the same value to both and leaves two such states again. -/

namespace Sys2Proof.Machine

/-- The two results are one value and states that differ at most in the APU and the audio port. -/
def SameResult {α : Type} (x y : α × State) : Prop := y.1 = x.1 ∧ SameButApu x.2 y.2

namespace SameButApu

variable {s t : State} (h : SameButApu s t)
include h

theorem read (a : Word) : SameResult (memRead a s) (memRead a t) := memRead_same a h

theorem dummyRead (a : Word) : SameButApu (dummyRead a s) (dummyRead a t) := (h.read a).2

theorem setPc (w : Word) : SameButApu (s.setPc w) (t.setPc w) := by
  rw [setPc_eq, setPc_eq, h.cpu_eq]
  exact setCpu_same _ h

theorem setSp (v : Byte) : SameButApu (s.setSp v) (t.setSp v) := by
  rw [setSp_eq, setSp_eq, h.cpu_eq]
  exact setCpu_same _ h

theorem peek (a : Word) : peek t a = peek s a := by
  obtain ⟨b, p, rfl⟩ := h
  rw [Machine.peek, busDecodeRead_withApu, Machine.peek]

theorem fetch : SameResult (fetch s) (fetch t) := by
  obtain ⟨hbyte, hs⟩ := h.read s.cpu.pc
  rw [Machine.fetch, Machine.fetch, h.cpu_eq]
  exact ⟨hbyte, hs.setPc _⟩

theorem push (v : Byte) : SameButApu (push v s) (push v t) := by
  rw [Machine.push, Machine.push, h.cpu_eq]
  exact (memWrite_same _ v h).setSp _

theorem pushWord (w : Word) : SameButApu (pushWord w s) (pushWord w t) := (h.push _).push _

theorem pull : SameResult (pull s) (pull t) := by
  rw [Machine.pull, Machine.pull, h.cpu_eq]
  exact (h.setSp _).read _

theorem pullWord : SameResult (pullWord s) (pullWord t) := by
  obtain ⟨hlo, hs⟩ := h.pull
  obtain ⟨hhi, hs⟩ := hs.pull
  exact ⟨congrArg₂ mkWord hhi hlo, hs⟩

theorem readVector (v : Word) : SameResult (readVector v s) (readVector v t) := by
  obtain ⟨hlo, hs⟩ := h.read v
  obtain ⟨hhi, hs⟩ := hs.read (v + 1)
  exact ⟨congrArg₂ mkWord hhi hlo, hs⟩

theorem takeInterrupt (b : Bool) (v : Word) : SameButApu (takeInterrupt b v s) (takeInterrupt b v t) := by
  obtain ⟨hpc, hs⟩ := ((h.pushWord s.cpu.pc).push (s.cpu.statusForPush b)).readVector v
  rw [Machine.takeInterrupt, Machine.takeInterrupt, h.cpu_eq]
  dsimp only
  rw [hpc, hs.cpu_eq]
  exact setCpu_same _ hs

/-- Resolving an operand makes reads at addresses that the registers and RAM give (R113 to R118). -/
theorem resolve (k : Access) (l : Loc) : SameResult (resolve k l s) (resolve k l t) := by
  have hloc : effAddr l t = effAddr l s ∧ locReads k l t = locReads k l s := by
    obtain ⟨a, p, rfl⟩ := h
    cases l <;> exact ⟨rfl, rfl⟩
  rw [resolve_eq, resolve_eq, hloc.1, hloc.2]
  exact ⟨rfl, busRun_same _ h⟩

theorem readSrc (o : Src) : SameResult (readSrc o s) (readSrc o t) := by
  cases o with
  | imm v => exact ⟨rfl, h⟩
  | mem l =>
    obtain ⟨haddr, hs⟩ := h.resolve .read l
    rw [Machine.readSrc, Machine.readSrc, haddr]
    exact hs.read _

theorem implied (f : Cpu → Cpu) : SameButApu (implied f s) (implied f t) := by
  rw [implied_eq, implied_eq, h.cpu_eq]
  exact setCpu_same _ (busRun_same _ h)

theorem withOperand (f : Cpu → Byte → Cpu) (o : Src) : SameButApu (withOperand f o s) (withOperand f o t) := by
  obtain ⟨hbyte, hs⟩ := h.readSrc o
  rw [Machine.withOperand, Machine.withOperand, hbyte, hs.cpu_eq]
  exact setCpu_same _ hs

theorem branch (taken : Bool) (d : Byte) : SameButApu (branch taken d s) (branch taken d t) := by
  have hreads : branchReads taken d t = branchReads taken d s ∧ branchTarget d t = branchTarget d s := by
    obtain ⟨a, p, rfl⟩ := h
    exact ⟨rfl, rfl⟩
  rw [branch_eq, branch_eq, hreads.1, hreads.2, h.cpu_eq]
  exact setCpu_same _ (busRun_same _ h)

theorem storeLoc (l : Loc) (v : Byte) : SameButApu (storeLoc l v s) (storeLoc l v t) := by
  obtain ⟨haddr, hs⟩ := h.resolve .write l
  rw [Machine.storeLoc, Machine.storeLoc, haddr]
  exact memWrite_same _ v hs

theorem modifyLoc (f : Cpu → Byte → Modified) (l : Loc) : SameButApu (modifyLoc f l s) (modifyLoc f l t) := by
  obtain ⟨haddr, hs⟩ := h.resolve .write l
  obtain ⟨hold, hs⟩ := hs.read (Machine.resolve .write l s).1
  have hwritten (v w : Byte) (x : Word) := memWrite_same x w (memWrite_same x v hs)
  simp only [Machine.modifyLoc, haddr, hold, h.cpu_eq, (hwritten _ _ _).cpu_eq]
  exact setCpu_same _ (hwritten _ _ _)

theorem modifyTarget (f : Cpu → Byte → Modified) (g : Target) :
    SameButApu (modifyTarget f g s) (modifyTarget f g t) := by
  cases g with
  | acc =>
    simp only [Machine.modifyTarget, modifyAcc_eq, h.cpu_eq]
    exact setCpu_same _ (busRun_same _ h)
  | mem l => exact h.modifyLoc f l

theorem pullAfterDummies : SameResult (pullAfterDummies s) (pullAfterDummies t) := by
  rw [Machine.pullAfterDummies, Machine.pullAfterDummies, h.cpu_eq]
  exact ((h.dummyRead _).dummyRead _).pull

theorem returnFromInterrupt : SameButApu (returnFromInterrupt s) (returnFromInterrupt t) := by
  obtain ⟨hstatus, hs⟩ := h.pullAfterDummies
  rw [returnFromInterrupt_eq, returnFromInterrupt_eq]
  dsimp only
  rw [hstatus, hs.cpu_eq]
  obtain ⟨hpc, hs⟩ := (setCpu_same _ hs).pullWord
  rw [hpc]
  exact hs.setPc _

theorem fault_eq : t.fault = s.fault := by
  obtain ⟨a, p, rfl⟩ := h
  rfl

theorem nmiQueued_eq : t.nmiQueued = s.nmiQueued := by
  obtain ⟨a, p, rfl⟩ := h
  rfl

theorem nmiService : SameButApu (nmiService s) (nmiService t) := by
  have hcleared : SameButApu { s with nmiQueued := false } { t with nmiQueued := false } := by
    obtain ⟨a, p, rfl⟩ := h
    exact ⟨a, p, rfl⟩
  rw [Machine.nmiService, Machine.nmiService]
  rw [h.cpu_eq] at hcleared ⊢
  exact ((hcleared.dummyRead _).dummyRead _).takeInterrupt false 0xFFFA

theorem nmiCheck : SameButApu (nmiCheck s) (nmiCheck t) := by
  rw [Machine.nmiCheck, Machine.nmiCheck, h.fault_eq, h.nmiQueued_eq]
  split_ifs
  · exact h.nmiService
  · exact h

theorem fetchInstr : SameResult (fetchInstr s) (fetchInstr t) := by
  obtain ⟨hop, h1⟩ := h.fetch
  obtain ⟨hlo, h2⟩ := h1.fetch
  obtain ⟨hhi, h3⟩ := h2.fetch
  rw [Machine.fetchInstr, Machine.fetchInstr]
  dsimp only
  rw [hop]
  split
  · exact ⟨rfl, h1⟩
  · exact ⟨by rw [hlo], h2⟩
  · exact ⟨by rw [hlo, hhi], h3⟩
  · exact ⟨by rw [hlo, h2.cpu_eq, h2.peek], h2⟩

/-- Every instruction answers two such states, each by the templates of its meaning. -/
theorem exec (i : Instr) : ∃ u v, exec i s = .next u ∧ exec i t = .next v ∧ SameButApu u v := by
  have hdummy := h.dummyRead s.cpu.pc
  have hcpu := h.cpu_eq
  cases i with
  | clc | sec | cli | sei | clv | cld | sed | tax | tay | txa | tya | tsx | txs | inx | iny | dex | dey =>
    exact ⟨_, _, rfl, rfl, h.implied _⟩
  | nop | nopImp => exact ⟨_, _, rfl, rfl, hcpu ▸ hdummy⟩
  | pha | php =>
    refine ⟨_, _, rfl, rfl, ?_⟩
    rw [hcpu]
    exact hdummy.push _
  | pla | plp =>
    obtain ⟨hbyte, hs⟩ := h.pullAfterDummies
    refine ⟨_, _, rfl, rfl, ?_⟩
    rw [hbyte, hs.cpu_eq]
    exact setCpu_same _ hs
  | jmp => exact ⟨_, _, rfl, rfl, h.setPc _⟩
  | jmpInd p =>
    obtain ⟨hlo, hs⟩ := h.read p
    obtain ⟨hhi, hs⟩ := hs.read (mkWord (hiByte p) (loByte p + 1))
    refine ⟨_, _, rfl, rfl, ?_⟩
    rw [hlo, hhi]
    exact hs.setPc _
  | jsr lo hi =>
    obtain ⟨hhi, hs⟩ := ((h.dummyRead (stackAddr s.cpu.sp)).pushWord s.cpu.pc).read s.cpu.pc
    refine ⟨_, _, rfl, rfl, ?_⟩
    rw [hcpu, hhi]
    exact hs.setPc _
  | rts =>
    obtain ⟨hw, hs⟩ := (hdummy.dummyRead (stackAddr s.cpu.sp)).pullWord
    refine ⟨_, _, rfl, rfl, ?_⟩
    rw [hcpu, hw]
    exact (hs.dummyRead _).setPc _
  | rti => exact ⟨_, _, rfl, rfl, h.returnFromInterrupt⟩
  | brk => exact ⟨_, _, rfl, rfl, h.fetch.2.takeInterrupt _ _⟩
  | bpl | bmi | bvc | bvs | bcc | bcs | bne | beq => exact ⟨_, _, rfl, rfl, hcpu ▸ h.branch _ _⟩
  | lda | ldx | ldy | adc | sbc | cmp | cpx | cpy | and | ora | eor | bit | lax =>
    exact ⟨_, _, rfl, rfl, h.withOperand _ _⟩
  | sta | stx | sty => exact ⟨_, _, rfl, rfl, hcpu ▸ h.storeLoc _ _⟩
  | asl | lsr | rol | ror => exact ⟨_, _, rfl, rfl, h.modifyTarget _ _⟩
  | inc | dec => exact ⟨_, _, rfl, rfl, h.modifyLoc _ _⟩
  | nopImm => exact ⟨_, _, rfl, rfl, h⟩
  | nopZp | nopZpx | nopAbs | nopAbx => exact ⟨_, _, rfl, rfl, (h.readSrc _).2⟩
  | undef op =>
    obtain ⟨a, p, rfl⟩ := h
    exact ⟨_, _, rfl, rfl, a, p, rfl⟩

end SameButApu

/-- Settles O14: the fetch gives both states one instruction, the instruction and the NMI check leave both in states that
still differ in the APU and the audio port alone. -/
theorem apuInvisibleToCpu : Obligations.ApuInvisibleToCpu := by
  intro s t h
  obtain ⟨hi, hfetched⟩ := h.fetchInstr
  obtain ⟨u, v, hu, hv, huv⟩ := hfetched.exec (fetchInstr s).1
  rw [step, step, h.fault_eq]
  split_ifs
  · exact ⟨s, t, rfl, rfl, h⟩
  · dsimp only
    rw [hi, hu, hv]
    exact ⟨_, _, rfl, rfl, huv.nmiCheck⟩

end Sys2Proof.Machine
end

section
/-! ## The step: what it fetches, executes and raises (R100, R337, R400, R401) -/

namespace Sys2Proof.Machine

/-! ### No step stops -/

/-- After a fatal error a step does nothing (R337, log 6). -/
theorem step_of_fault {s : State} (h : s.fault ≠ none) : step s = .next s := by
  rw [step, if_pos (Option.isSome_iff_ne_none.2 h)]

/-- With no fault pending the step executes what it fetches, then checks for an NMI. -/
theorem step_of_exec {s t : State} (h : s.fault = none) (ht : exec (fetchInstr s).1 (fetchInstr s).2 = .next t) :
    step s = .next (nmiCheck t) := by
  simp [step, h, ht]

theorem exec_completes (i : Instr) (s : State) : ∃ t, exec i s = .next t := by
  obtain ⟨t, ht, -⟩ := exec_cases i s
  exact ⟨t, ht⟩

/-- Only an undefined opcode's instruction touches the fault (R401). -/
theorem exec_fault {i : Instr} {s t : State} (ht : exec i s = .next t) (hi : ∀ op, i ≠ .undef op) : t.fault = s.fault := by
  obtain ⟨u, hu, hcases⟩ := exec_cases i s
  obtain rfl : u = t := by simpa [hu] using ht
  obtain ⟨l, c, rfl⟩ | ⟨op, hop, -⟩ := hcases
  · rw [setCpu_fault, busRun_fault]
  · exact absurd hop (hi op)

theorem step_completes (s : State) : ∃ t, step s = .next t := by
  by_cases h : s.fault = none
  · obtain ⟨t, ht⟩ := exec_completes (fetchInstr s).1 (fetchInstr s).2
    exact ⟨_, step_of_exec h ht⟩
  · exact ⟨s, step_of_fault h⟩

theorem runSteps_of_fault {s : State} (h : s.fault ≠ none) (k : Nat) : runSteps k s = s := by
  induction k with
  | zero => rfl
  | succ k ih => simpa [runSteps, step_of_fault h] using ih

/-- Settles O8: no arm of the dispatch stops, only that of an undefined opcode sets the fault, and the step looks at the
fault first. -/
theorem everyInstructionCompletes : Obligations.EveryInstructionCompletes := by
  refine ⟨step_completes, fun i s => ?_, fun s h => ⟨step_of_fault h, runSteps_of_fault h⟩⟩
  obtain ⟨t, ht⟩ := exec_completes i s
  exact ⟨t, ht, exec_fault ht⟩

/-! ### The instruction a step fetches -/

/-- The row of an undefined opcode takes no operand bytes (R126, log 28). -/
theorem row_of_undefBytes {op : Byte} (h : op ∈ undefBytes) : opcodeRow op = .f1 (.undef op) := by
  fin_cases h <;> rfl

/-- The only row whose last byte is not fetched before the instruction is JSR's (R202). -/
theorem row_f3late {op : Byte} {g : Byte → Byte → Instr} (h : opcodeRow op = .f3late g) : g = .jsr := by
  revert h
  fin_cases op <;> intro h <;> cases h
  rfl

/-- The step fetches the bytes its row takes, and names the row's instruction with them; the third byte of JSR, which it
does not fetch, may be another (R100, R202). -/
theorem fetchInstr_row (s : State) :
    ∃ b2, fetchInstr s =
        ((opcodeRow (fetch s).1).instr (fetch (fetch s).2).1 b2, fetchMany (fetchedOf (opcodeRow (fetch s).1)) s) ∧
      (b2 = (fetch (fetch (fetch s).2).2).1 ∨ opcodeRow (fetch s).1 = .f3late .jsr) := by
  unfold fetchInstr
  dsimp only
  split
  next hrow => exact ⟨_, by rw [hrow]; rfl, .inl rfl⟩
  next hrow => exact ⟨_, by rw [hrow]; rfl, .inl rfl⟩
  next hrow => exact ⟨_, by rw [hrow]; rfl, .inl rfl⟩
  next hrow => exact ⟨_, by rw [hrow]; rfl, .inr (by rw [hrow, row_f3late hrow])⟩

/-- Settles O6: the row of an undefined opcode names the instruction that raises the fault, and no other row names it. -/
theorem faultOnlyFromUndefinedOpcode : Obligations.FaultOnlyFromUndefinedOpcode := by
  intro s hs
  refine ⟨fun hop => ⟨?_, fetch_cycles s, fetch_cpu s⟩, fun hop => ?_⟩
  · have hfetched : fetchInstr s = (.undef (fetch s).1, (fetch s).2) := by
      rw [fetchInstr, row_of_undefBytes hop]
    have hpc : (fetch s).2.cpu.pc - 1 = s.cpu.pc := by
      rw [fetch_cpu, BitVec.add_sub_cancel]
    have hexec : exec (.undef (fetch s).1) (fetch s).2 =
        .next { (fetch s).2 with fault := some (.unimplementedOpcode (fetch s).1 s.cpu.pc) } := by
      rw [(undefinedOpcodeSetsFault (fetch s).1 (fetch s).2 hop).2, hpc]
    rw [step_of_exec hs (by rw [hfetched, hexec]), nmiCheck, if_neg (by simp)]
  · obtain ⟨b2, hfetched, -⟩ := fetchInstr_row s
    obtain ⟨t, ht⟩ := exec_completes (fetchInstr s).1 (fetchInstr s).2
    have hdefined : ∀ op, (fetchInstr s).1 ≠ .undef op := by
      intro op h
      rw [hfetched, row_eq_undef] at h
      exact hop h.2
    refine ⟨nmiCheck t, step_of_exec hs ht, ?_⟩
    rw [nmiCheck_fault, exec_fault ht hdefined, hfetched, (fetchMany_readsOnly _ s).fault, hs]

end Sys2Proof.Machine
end

section
/-! ## The NMI service (R415, R416) -/

namespace Sys2Proof.Machine

/-- Clearing the queue changes nothing a read or a push frame speaks of. -/
theorem unqueueNmi_readsOnly (s : State) : ReadsOnly s { s with nmiQueued := false } :=
  { ReadsOnly.refl s with bytes := fun _ ha => peek_plain_congr ha rfl rfl rfl }

/-- Pushes after something that only reads and leaves SP. -/
theorem PushesOnly.after_reads {s t u : State} {vs : List Byte} (h : ReadsOnly s t) (hsp : t.cpu.sp = s.cpu.sp)
    (k : PushesOnly vs t u) : PushesOnly vs s u where
  toKept := h.toKept.trans k.toKept
  toPpuKept := h.toPpuKept.trans k.toPpuKept
  pushed j hj := stackByte_congr hsp _ ▸ k.pushed j hj
  ramKept a ha hn :=
    (k.ramKept a ha fun j hj => stackByte_congr hsp _ ▸ hn j hj).trans (h.bytes a (.inl ha))
  romKept a ha := (k.romKept a ha).trans (h.bytes a (.inr ha))
  mapper := k.mapper.trans h.mapper
  strobe := k.strobe.trans h.strobe
  input := k.input.trans h.input

/-- Settles O30: with an NMI queued the check is the service, whose entry comes after two dummy reads of `pc`. -/
theorem nmiServiceEntry : Obligations.NmiServiceEntry := by
  intro s hs
  refine ⟨fun hq => by simp [nmiCheck, hq], fun hq => ?_⟩
  intro s1 bytes
  have hservice : nmiCheck s = nmiService s := if_pos ⟨hs, hq⟩
  have hreads : AllReads [.read s.cpu.pc, .read s.cpu.pc] := allReads_cons _ (allReads_singleton _)
  have hrom : InRom 0xFFFA ∧ InRom (0xFFFA + 1) := by
    unfold InRom
    decide
  have hpeek (a : Word) (ha : InRom a) : peek s1 a = peek s a := (unqueueNmi_readsOnly s).bytes a (.inr ha)
  have hentry : nmiCheck s =
      (busRun ([.read s.cpu.pc, .read s.cpu.pc] ++ pushBus s bytes ++ [.read 0xFFFA, .read 0xFFFB]) s1).setCpu
        { s.cpu with sp := s.cpu.sp - 3, pc := mkWord (peek s 0xFFFB) (peek s 0xFFFA), i := true } := by
    have h := takeInterrupt_afterReads (s := s1) (c := s1.cpu) hreads rfl hrom.1 hrom.2 false
    rw [busRun_setCpu_same, hpeek _ hrom.1, hpeek _ hrom.2] at h
    rw [hservice, nmiService]
    exact h
  refine ⟨hentry, hservice ▸ nmiService_cycles s, fun hram => ?_⟩
  rw [hentry]
  exact .after_reads (unqueueNmi_readsOnly s) rfl (setCpu_pushesOnly
    (busRun_push_three (s := s1) hram.1 hreads (allReads_cons _ (allReads_singleton _)) _ _ _) _)

end Sys2Proof.Machine
end

section
/-! ## The unofficial NOPs with an operand (R331 to R335) -/

namespace Sys2Proof.Machine

/-- An instruction that makes reads and nothing else. -/
theorem exec_discards {i : Instr} {s : State} {l : List BusOp} (h : exec i s = .next (busRun l s)) (hl : AllReads l) :
    ∃ t, exec i s = .next t ∧ t = busRun l s ∧ t.cpu = s.cpu ∧ t.cycles = s.cycles + busTicks l ∧ ReadsOnly s t :=
  ⟨_, h, rfl, busRun_cpu l s, busRun_cycles l s, busRun_readsOnly hl s⟩

theorem exec_readAndDiscard {i : Instr} {s : State} {l : Loc} (h : exec i s = .next (readAndDiscard l s)) :
    ∃ t, exec i s = .next t ∧ t = busRun (srcReads (.mem l) s) s ∧ t.cpu = s.cpu ∧
      t.cycles = s.cycles + busTicks (srcReads (.mem l) s) ∧ ReadsOnly s t :=
  exec_discards (by rw [h, readAndDiscard_eq]) (srcReads_reads _ s)

/-- Settles O19: the immediate NOP does nothing after its fetches, the others make the reads of their mode. -/
theorem operandNops : Obligations.OperandNops := by
  intro s op d a r hr
  fin_cases hr <;> intro _
  · exact ⟨rfl, exec_discards rfl allReads_nil⟩
  all_goals exact ⟨rfl, exec_readAndDiscard rfl⟩

end Sys2Proof.Machine
end

section
/-! ## The ticks of a step (R116, R118, R121, R220, R337, R416, R450, R620) -/

namespace Sys2Proof

open Machine (Access)

/-- The reads of resolving an address, without the one of a page cross (R113 to R118). -/
def Loc.ticks (k : Access) : Loc → Nat
  | .zp _ | .abs _ => 0
  | .zpx _ | .zpy _ => 1
  | .abx _ | .aby _ => match k with | .read => 0 | .write => 1
  | .izx _ => 3
  | .izy _ => match k with | .read => 2 | .write => 3

/-- The reads of a read-kind operand, without the one of a page cross (R112 to R118). -/
def Src.ticks : Src → Nat
  | .imm _ => 0
  | .mem l => l.ticks .read + 1

/-- The ticks of an instruction after its fetches, without the additions of R620. -/
def Instr.ticks : Instr → Nat
  | .pha | .php => 2
  | .pla | .plp => 3
  | .jmp _ => 0
  | .jmpInd _ => 2
  | .jsr _ _ => 4
  | .rts | .rti => 5
  | .brk => 6
  | .bpl _ | .bmi _ | .bvc _ | .bvs _ | .bcc _ | .bcs _ | .bne _ | .beq _ => 0
  | .lda o | .ldx o | .ldy o | .adc o | .sbc o | .cmp o | .cpx o | .cpy o | .and o | .ora o | .eor o => o.ticks
  | .bit l | .lax l => (Src.mem l).ticks
  | .sta l | .stx l | .sty l => l.ticks .write + 1
  | .asl (.mem l) | .lsr (.mem l) | .rol (.mem l) | .ror (.mem l) | .inc l | .dec l => l.ticks .write + 3
  | .nopImm _ _ => 0
  | .nopZp _ d => (Src.mem (.zp d)).ticks
  | .nopZpx _ d => (Src.mem (.zpx d)).ticks
  | .nopAbs a => (Src.mem (.abs a)).ticks
  | .nopAbx _ a => (Src.mem (.abx a)).ticks
  | .undef _ => 0
  | _ => 1

end Sys2Proof

namespace Sys2Proof.Machine

/-- The table of R620 is the fetches of each row's instruction and its ticks after them. -/
theorem opcodeTicks_row (op b1 b2 : Byte) :
    opcodeTicks op = fetchedBytes ((opcodeRow op).instr b1 b2) + ((opcodeRow op).instr b1 b2).ticks := by
  fin_cases op <;> rfl

/-! ### The ticks of the bus lists -/

theorem busTicks_indexReads_read (base : Word) (idx : Byte) :
    busTicks (indexReads .read base idx) = if crosses base idx then 1 else 0 := by
  rw [indexReads]
  split_ifs <;> rfl

/-- The read kind adds a tick on a page cross (R116, R118). -/
theorem busTicks_srcReads (o : Src) (s : State) : busTicks (srcReads o s) = o.ticks + addedTicks (.lda o) s := by
  cases o with
  | imm v => rfl
  | mem l =>
    rw [srcReads, busTicks_append]
    cases l with
    | zp | zpx | zpy | abs | izx => rfl
    | abx | aby =>
      rw [locReads, busTicks_indexReads_read]
      exact Nat.add_comm ..
    | izy =>
      rw [locReads, busTicks_append, busTicks_indexReads_read]
      exact Nat.add_right_comm ..

/-- The write kind makes the same reads whatever the page (R116, R118). -/
theorem busTicks_locReads_write (l : Loc) (s : State) : busTicks (locReads .write l s) = l.ticks .write := by
  cases l <;> rfl

/-- A write ticks once, and 512 times more at `$4014` (R63, R450). -/
theorem ticks_write (l : Loc) (v : Byte) (s : State) :
    (BusOp.write (effAddr l s) v).ticks = 1 + addedTicks (.sta l) s := by
  show (if effAddr l s = 0x4014 then 513 else 1) = 1 + if effAddr l s = 0x4014 then 512 else 0
  split_ifs <;> rfl

theorem busTicks_storeBus (l : Loc) (v : Byte) (s : State) :
    busTicks (storeBus l v s) = l.ticks .write + 1 + addedTicks (.sta l) s := by
  rw [storeBus, busTicks_append, busTicks_locReads_write, Nat.add_assoc, ← ticks_write l v]
  rfl

theorem busTicks_modifyBus (l : Loc) (v : Byte) (s : State) :
    busTicks (modifyBus l v s) = l.ticks .write + 3 + addedTicks (.inc l) s := by
  have hadded : addedTicks (.inc l) s = 2 * addedTicks (.sta l) s := rfl
  have hthree : busTicks [.read (effAddr l s), .write (effAddr l s) (oldByte l s), .write (effAddr l s) v] =
      1 + ((1 + addedTicks (.sta l) s) + (1 + addedTicks (.sta l) s)) := by
    rw [← ticks_write l v, ticks_write l v, ← ticks_write l (oldByte l s)]
    rfl
  rw [modifyBus, busTicks_append, busTicks_locReads_write, hthree, hadded]
  omega

/-! ### The ticks of an instruction -/

/-- The instruction takes `n` ticks. -/
def TakesTicks (i : Instr) (s : State) (n : Nat) : Prop := ∃ t, exec i s = .next t ∧ t.cycles = s.cycles + n

section

variable {i : Instr} {s : State}

theorem takesTicks_implied {f : Cpu → Cpu} (h : exec i s = .next (implied f s)) : TakesTicks i s 1 := by
  refine ⟨_, h, ?_⟩
  rw [implied_eq]
  exact busRun_cycles [.read s.cpu.pc] s

theorem takesTicks_branch {taken : Bool} {d : Byte} (h : exec i s = .next (branch taken d s)) :
    TakesTicks i s (branchTicks taken d s) := by
  obtain ⟨t, ht, -, hcycles, -⟩ := exec_branch h
  exact ⟨t, ht, hcycles⟩

theorem takesTicks_withOperand {f : Cpu → Byte → Cpu} {o : Src} (h : exec i s = .next (withOperand f o s)) :
    TakesTicks i s (o.ticks + addedTicks (.lda o) s) := by
  obtain ⟨t, ht, -, hcycles, -⟩ := exec_withOperand h rfl
  exact ⟨t, ht, busTicks_srcReads o s ▸ hcycles⟩

theorem takesTicks_readAndDiscard {l : Loc} (h : exec i s = .next (readAndDiscard l s)) :
    TakesTicks i s ((Src.mem l).ticks + addedTicks (.lda (.mem l)) s) := by
  obtain ⟨t, ht, -, -, hcycles, -⟩ := exec_readAndDiscard h
  exact ⟨t, ht, busTicks_srcReads (.mem l) s ▸ hcycles⟩

theorem takesTicks_storeLoc {l : Loc} {v : Byte} (h : exec i s = .next (storeLoc l v s)) :
    TakesTicks i s (l.ticks .write + 1 + addedTicks (.sta l) s) := by
  obtain ⟨t, ht, -, -, hcycles, -⟩ := exec_storeLoc h
  exact ⟨t, ht, busTicks_storeBus l v s ▸ hcycles⟩

theorem takesTicks_modifyLoc {f : Cpu → Byte → Modified} {l : Loc} (h : exec i s = .next (modifyLoc f l s)) :
    TakesTicks i s (l.ticks .write + 3 + addedTicks (.inc l) s) := by
  obtain ⟨t, ht, -, hcycles, -⟩ := exec_modifyLoc h rfl
  exact ⟨t, ht, busTicks_modifyBus l _ s ▸ hcycles⟩

/-- A shift of A is of the implied template; a shift of memory has the additions of every read-modify-write. -/
theorem takesTicks_modifyTarget {f : Cpu → Byte → Modified} {g : Target} {j : Target → Instr}
    (h : exec (j g) s = .next (modifyTarget f g s)) (hacc : (j .acc).ticks + addedTicks (j .acc) s = 1)
    (hmem : ∀ l, (j (.mem l)).ticks + addedTicks (j (.mem l)) s = l.ticks .write + 3 + addedTicks (.inc l) s) :
    TakesTicks (j g) s ((j g).ticks + addedTicks (j g) s) := by
  cases g with
  | acc =>
    obtain ⟨t, ht, -, hcycles, -⟩ := exec_modifyAcc h rfl
    exact ⟨t, ht, hacc ▸ hcycles⟩
  | mem l => exact hmem l ▸ takesTicks_modifyLoc h

/-- The ticks of every instruction after its fetches (R620). -/
theorem takesTicks (hwf : i.wf = true) : TakesTicks i s (i.ticks + addedTicks i s) := by
  cases i with
  | clc | sec | cli | sei | clv | cld | sed | tax | tay | txa | tya | tsx | txs | inx | iny | dex | dey =>
    exact takesTicks_implied rfl
  | nop | nopImp => exact ⟨_, rfl, dummyRead_cycles s _⟩
  | pha | php => exact ⟨_, rfl, by rw [push_cycles, dummyRead_cycles]; rfl⟩
  | pla | plp => exact ⟨_, rfl, by simp [pullAfterDummies, pull_cycles]; rfl⟩
  | jmp => exact ⟨_, rfl, rfl⟩
  | jmpInd => exact ⟨_, rfl, by simp; rfl⟩
  | jsr => exact ⟨_, rfl, by simp [pushWord_cycles]; rfl⟩
  | rts => exact ⟨_, rfl, by simp [pullWord_cycles]; rfl⟩
  | rti => exact ⟨_, rfl, returnFromInterrupt_cycles s⟩
  | brk => exact ⟨_, rfl, by rw [takeInterrupt_cycles, fetch_cycles]; rfl⟩
  | bpl | bmi | bvc | bvs | bcc | bcs | bne | beq => exact (Nat.zero_add _).symm ▸ takesTicks_branch rfl
  | lda | ldx | ldy | adc | sbc | cmp | cpx | cpy | and | ora | eor => exact takesTicks_withOperand rfl
  | lax l => exact takesTicks_withOperand (o := .mem l) rfl
  | bit l =>
    have hadded : addedTicks (.lda (.mem l)) s = 0 := by
      cases l <;> cases hwf <;> rfl
    have hticks := takesTicks_withOperand (i := .bit l) (s := s) (o := .mem l) rfl
    rwa [hadded] at hticks
  | sta | stx | sty => exact takesTicks_storeLoc rfl
  | asl | lsr | rol | ror => exact takesTicks_modifyTarget rfl rfl fun _ => rfl
  | inc | dec => exact takesTicks_modifyLoc rfl
  | nopImm => exact ⟨_, rfl, rfl⟩
  | nopZp | nopZpx | nopAbs | nopAbx => exact takesTicks_readAndDiscard rfl
  | undef => exact ⟨_, rfl, rfl⟩

end

/-! ### The ticks of a step -/

theorem nmiCheck_cycles (s : State) :
    (nmiCheck s).cycles = s.cycles + if s.fault = none ∧ s.nmiQueued then 7 else 0 := by
  rw [nmiCheck]
  split_ifs
  · exact nmiService_cycles s
  · rfl

/-- Three bytes hold every row's operands, so they decode to the row's instruction with them. -/
theorem row_of_decode_three {op b1 b2 : Byte} {i : Instr} {rest : List Byte}
    (h : decode [op, b1, b2] = .ok (i, rest)) : (opcodeRow op).instr b1 b2 = i := by
  have hrow := decode_row op b1 b2 ([b1, b2].drop ((opcodeRow op).len - 1))
  rw [Row.operands_append_drop, h] at hrow
  cases hrow
  rfl

/-- The step executes the instruction of the fetched bytes; the byte it names JSR with is not used (R202, log 8). -/
theorem exec_fetchInstr {s : State} {i : Instr}
    (hi : (opcodeRow (fetch s).1).instr (fetch (fetch s).2).1 (fetch (fetch (fetch s).2).2).1 = i) :
    exec (fetchInstr s).1 (fetchInstr s).2 = exec i (fetchMany (fetchedBytes i) s) := by
  subst hi
  obtain ⟨b2, hfetched, hb2⟩ := fetchInstr_row s
  rw [hfetched, fetchedBytes_row]
  obtain rfl | hrow := hb2
  · rfl
  · rw [hrow]
    rfl

/-- Settles O9: the fetches of a row and the ticks of its instruction after them make the table's entry and its additions,
and the NMI service adds seven. -/
theorem stepTicksFollowTable : Obligations.StepTicksFollowTable := by
  intro s i rest hs hdecode
  have hi := row_of_decode_three hdecode
  have hwf : i.wf = true := hi ▸ (row_wf_encode _ _ _).1
  have htable : opcodeTicks (fetch s).1 = fetchedBytes i + i.ticks := hi ▸ opcodeTicks_row _ _ _
  obtain ⟨t, ht, hcycles⟩ := takesTicks (s := fetchMany (fetchedBytes i) s) hwf
  refine ⟨t, ht, step_of_exec hs ((exec_fetchInstr hi).trans ht), ?_⟩
  rw [nmiCheck_cycles, hcycles, fetchMany_cycles, htable]
  omega

end Sys2Proof.Machine
end

section
/-! ## PPUSTATUS and PPUDATA (R67, R433, R438, R441) -/

namespace Sys2Proof.Machine

/-! ### PPUSTATUS -/

/-- The byte a PPUSTATUS read shows: the two flags above six free bits (R433, log 4). -/
theorem ppuStatusRead_bits (s : State) :
    (ppuStatusRead s).1.getLsbD 7 = s.ppu.nmiOccurred ∧ (ppuStatusRead s).1.getLsbD 6 = s.ppu.sprite0Hit ∧
      (ppuStatusRead s).1.getLsbD 5 = (Config.freeByte s.draws).getLsbD 5 := by
  simp only [ppuStatusRead, drawByte, BitVec.getLsbD_append]
  simp

/-- With the vblank flag cleared the NMI line is low, so the edge logic queues nothing (R433, R441). -/
theorem ppuStatusRead_state (s : State) :
    (ppuStatusRead s).2 =
      { s with
        ppu.nmiOccurred := false
        ppu.spriteOverflow := (Config.freeByte s.draws).getLsbD 5
        ppu.addrLatch := .first
        ppu.scrollLatch := .first
        nmiLinePrev := false
        draws := s.draws + 1 } := by
  simp [ppuStatusRead, drawByte, nmiLineEval, Ppu.nmiLine]

/-- Settles O49: after its tick the read is that of the status register. -/
theorem ppuStatusReadClears : Obligations.PpuStatusReadClears := by
  intro s a h1 h2 h
  have hread : memRead a s = ppuStatusRead (tick s) := memRead_ppuMirror h1 h2 h s
  obtain ⟨hvblank, hsprite0, hoverflow⟩ := ppuStatusRead_bits (tick s)
  dsimp only
  rw [hread, hoverflow]
  exact ⟨hvblank, hsprite0, ppuStatusRead_state (tick s)⟩

/-! ### PPUDATA -/

/-- The address after a PPUDATA access: 32 or 1 on, by PPUCTRL bit 2, modulo 16384 (R438). -/
theorem add_vramStep (p : Ppu) :
    p.vramAddr + p.vramStep = BitVec.ofNat 14 (p.vramAddr.toNat + if p.ctrl.toNat / 4 % 2 = 1 then 32 else 1) := by
  have hstep : p.vramStep = BitVec.ofNat 14 (if p.ctrl.toNat / 4 % 2 = 1 then 32 else 1) := by
    have hbit : p.ctrl.getLsbD 2 = decide (p.ctrl.toNat / 4 % 2 = 1) := getLsbD_byteBit p.ctrl 2
    simp only [Ppu.vramStep, hbit, decide_eq_true_eq]
    split_ifs <;> rfl
  rw [hstep, BitVec.ofNat_add, BitVec.ofNat_toNat, BitVec.setWidth_eq]

/-- The pattern-table address below a palette address (R438). -/
theorem sub_0x1000 {a : VAddr} (h : 0x3F00 ≤ a.toNat) : a - 0x1000 = BitVec.ofNat 14 (a.toNat - 0x1000) := by
  apply BitVec.eq_of_toNat_eq
  have hbase : (0x1000 : VAddr).toNat = 0x1000 := rfl
  rw [BitVec.toNat_sub, BitVec.toNat_ofNat, hbase]
  omega

/-- Settles O50: the tick before the access leaves the address, the buffer and PPUCTRL alone, and the access then branches
on the palette as the statement does. -/
theorem ppuDataAccess : Obligations.PpuDataAccess := by
  intro s a v h1 h2 h
  have hread : memRead a s = ppuDataRead (tick s) := memRead_ppuMirror h1 h2 h s
  have hwrite : memWrite a v s = ppuDataWrite v (tick s) := memWrite_ppuMirror h1 h2 h v s
  dsimp only
  rw [hread, hwrite, ppuDataRead, ppuDataWrite, add_vramStep, ← tick_ppu_vramAddr s, ← tick_ppu_ctrl s,
    ← tick_ppu_readBuffer s]
  refine ⟨fun hbuffer => if_pos hbuffer, fun hpalette => ?_, rfl⟩
  rw [← sub_0x1000 hpalette]
  exact if_neg (Nat.not_lt.2 hpalette)

end Sys2Proof.Machine
end

section
/-! ## The PPU space by the places its addresses lead to (R439, R471, R476) -/

namespace Sys2Proof.Machine

/-- The byte at a place of the PPU space. -/
def ppuAt (s : State) (q : Nat × Nat) : Byte :=
  match q.1 with
  | 0 => chrRead s q.2
  | 1 => memGet s.ppu.nametable q.2
  | _ => memGet s.ppu.palette q.2

variable {s : State}

theorem ppuPlace_pattern {k : Nat} (h : k < 0x2000) : ppuPlace s k = (0, k) := if_pos h

theorem ppuPlace_nametable {k : Nat} (h1 : 0x2000 ≤ k) (h2 : k < 0x3F00) :
    ppuPlace s k = (1, 1024 * tableShown s (k / 1024 % 4) + k % 1024) := by
  rw [ppuPlace, if_neg (Nat.not_lt.2 h1), if_pos h2]

theorem ppuPlace_palette {k : Nat} (h : 0x3F00 ≤ k) : ppuPlace s k = (2, if k % 4 = 0 then k % 16 else k % 32) := by
  rw [ppuPlace, if_neg (by omega), if_neg (Nat.not_lt.2 h)]

/-- A read depends on the place its address leads to and on nothing else of the address. -/
theorem ppuRead_eq_ppuAt (s : State) (a : VAddr) : ppuRead s a = ppuAt s (ppuPlace s a.toNat) := by
  rw [ppuRead_place]
  split_ifs with h1 h2
  · rw [ppuPlace_pattern h1]
    rfl
  · rw [ppuPlace_nametable (Nat.not_lt.1 h1) h2]
    rfl
  · rw [ppuPlace_palette (Nat.not_lt.1 h2)]
    rfl

theorem ppuRead_congr {a b : VAddr} (h : ppuPlace s a.toNat = ppuPlace s b.toNat) : ppuRead s a = ppuRead s b := by
  rw [ppuRead_eq_ppuAt, ppuRead_eq_ppuAt, h]

/-- A place is in the pattern tables, in the nametables or in the palette. -/
theorem ppuPlace_region (s : State) (k : Nat) :
    ∃ j, ppuPlace s k = (0, j) ∨ ppuPlace s k = (1, j) ∨ ppuPlace s k = (2, j) := by
  by_cases h1 : k < 0x2000
  · exact ⟨_, .inl (ppuPlace_pattern h1)⟩
  · by_cases h2 : k < 0x3F00
    · exact ⟨_, .inr (.inl (ppuPlace_nametable (Nat.not_lt.1 h1) h2))⟩
    · exact ⟨_, .inr (.inr (ppuPlace_palette (Nat.not_lt.1 h2)))⟩

/-- CHR-ROM takes no write (R439, R471). -/
theorem ppuWrite_rom {a : VAddr} (ha : a.toNat < 0x2000) (hrom : s.cfg.chrBanks ≠ 0) (v : Byte) : ppuWrite a v s = s := by
  rw [ppuWrite_place, if_pos ha, chrWrite, if_neg hrom]

/-- A write to the PPU space stores at its own place and nowhere else, where the place takes one. -/
theorem ppuAt_ppuWrite (h : Inv s) {a : VAddr} (hram : 0x2000 ≤ a.toNat ∨ s.cfg.chrBanks = 0) (b : VAddr) (v : Byte) :
    ppuAt (ppuWrite a v s) (ppuPlace s b.toNat) =
      if ppuPlace s a.toNat = ppuPlace s b.toNat then if a.toNat < 0x3F00 then v else v &&& 0x3F
      else ppuAt s (ppuPlace s b.toNat) := by
  obtain ⟨j, hb⟩ := ppuPlace_region s b.toNat
  rw [ppuWrite_place]
  by_cases h1 : a.toNat < 0x2000
  · have hchr : s.cfg.chrBanks = 0 := hram.resolve_left (Nat.not_le.2 h1)
    rw [if_pos h1, chrWrite, if_pos hchr, ppuPlace_pattern h1, if_pos (show a.toNat < 0x3F00 by omega)]
    obtain hb | hb | hb := hb <;> simp [hb, ppuAt, chrRead, hchr, memGet_memSet h.chrRamWf.1, eq_comm]
  · rw [if_neg h1]
    by_cases h2 : a.toNat < 0x3F00
    · rw [if_pos h2, if_pos h2, ppuPlace_nametable (Nat.not_lt.1 h1) h2]
      obtain hb | hb | hb := hb <;> simp [hb, ppuAt, chrRead, memGet_memSet h.ppu.nametableWf.1, eq_comm]
    · rw [if_neg h2, if_neg h2, ppuPlace_palette (Nat.not_lt.1 h2)]
      obtain hb | hb | hb := hb <;> simp [hb, ppuAt, chrRead, memGet_memSet h.ppu.paletteWf.1, eq_comm]

/-- A listed byte is in the list. -/
theorem mem_of_lookupKey {α : Type} {k : Nat} {v : α} {m : List (Nat × α)} (h : lookupKey k m = some v) : (k, v) ∈ m := by
  induction m with
  | nil => cases h
  | cons p m ih =>
    obtain ⟨j, w⟩ := p
    simp only [lookupKey] at h
    split_ifs at h with hj
    · cases h
      exact hj ▸ List.mem_cons_self
    · exact List.mem_cons_of_mem _ (ih h)

/-- A byte of a memory is `$00` or one of those listed. -/
theorem memGet_of_forall {P : Byte → Prop} {m : Mem} (hzero : P 0) (h : ∀ q ∈ m, P q.2) (k : Nat) : P (memGet m k) := by
  rw [memGet]
  cases hk : lookupKey k m with
  | none => exact hzero
  | some v => exact h _ (mem_of_lookupKey hk)

theorem ppuRead_palette_lt (h : Inv s) {a : VAddr} (ha : 0x3F00 ≤ a.toNat) : (ppuRead s a).toNat < 64 := by
  rw [ppuRead_eq_ppuAt, ppuPlace_palette ha]
  exact memGet_of_forall (P := fun v => v.toNat < 64) (by decide) h.ppu.paletteSix _

/-- `$3000-$3EFF` leads where `$2000-$2EFF` does (R439). -/
theorem ppuPlace_repeat {k : Nat} (h1 : 0x2000 ≤ k) (h2 : k < 0x2F00) : ppuPlace s (k + 0x1000) = ppuPlace s k := by
  have htable : (k + 0x1000) / 1024 % 4 = k / 1024 % 4 := by omega
  have hoffset : (k + 0x1000) % 1024 = k % 1024 := by omega
  rw [ppuPlace_nametable (by omega) (by omega), ppuPlace_nametable h1 (by omega), htable, hoffset]

/-- Settles O51: a write is a store at the place of its address, a read a read at the place of its own, and two addresses
are mirrors when they have one place. -/
theorem ppuSpaceReadBack : Obligations.PpuSpaceReadBack := by
  intro s a b v h place
  refine ⟨?_, ppuRead_congr, fun h1 h2 => ?_, fun h1 h2 => ppuRead_congr ?_, ppuRead_palette_lt h,
    fun h1 h2 hab ha => ppuRead_congr ?_, fun h1 hrom => ppuWrite_rom h1 hrom v⟩
  · by_cases hram : 0x2000 ≤ a.toNat ∨ s.cfg.chrBanks = 0
    · rw [ppuRead_eq_ppuAt, ppuPlace_ppuWrite, ppuAt_ppuWrite h hram, ← ppuRead_eq_ppuAt]
      simp only [place, hram, and_true]
    · obtain ⟨hlow, hrom⟩ := not_or.1 hram
      rw [ppuWrite_rom (Nat.not_le.1 hlow) hrom, if_neg fun hc => hram hc.2]
  · rw [ppuRead_place, if_neg (Nat.not_lt.2 h1), if_pos h2]
  · have hsum : (a + 0x1000).toNat = a.toNat + 0x1000 := by
      rw [BitVec.toNat_add]
      exact Nat.mod_eq_of_lt (Nat.add_lt_add_right h2 0x1000 |>.trans (by decide))
    rw [hsum, ppuPlace_repeat h1 h2]
  · rw [ppuPlace_palette h1, ppuPlace_palette h2, if_pos ha, if_pos (by omega), hab]

end Sys2Proof.Machine
end

section
/-! ## Vblank and the NMI edge (R440, R441, R452) -/

namespace Sys2Proof.Machine

variable {s : State}

/-- Rendering a dot touches neither the vblank and overflow flags, the NMI logic nor the video port (R442 to R446). -/
theorem renderDot_vblank (s : State) :
    (renderDot s).ppu.nmiOccurred = s.ppu.nmiOccurred ∧ (renderDot s).ppu.spriteOverflow = s.ppu.spriteOverflow ∧
      (renderDot s).nmiQueued = s.nmiQueued ∧ (renderDot s).nmiLinePrev = s.nmiLinePrev ∧
      (renderDot s).video = s.video := by
  unfold renderDot
  dsimp only
  split_ifs <;> exact ⟨rfl, rfl, rfl, rfl, rfl⟩

theorem ppuAdvanceDot_vblank (s : State) :
    (ppuAdvanceDot s).ppu.nmiOccurred = (atNextPos s).ppu.nmiOccurred ∧
      (ppuAdvanceDot s).ppu.spriteOverflow = (atNextPos s).ppu.spriteOverflow ∧
      (ppuAdvanceDot s).nmiQueued = (atNextPos s).nmiQueued ∧
      (ppuAdvanceDot s).nmiLinePrev = (atNextPos s).nmiLinePrev ∧ (ppuAdvanceDot s).video = (atNextPos s).video := by
  obtain e | ⟨-, e⟩ := ppuAdvanceDot_cases s
  · rw [e]
    exact ⟨rfl, rfl, rfl, rfl, rfl⟩
  · rw [e]
    exact renderDot_vblank _

/-- The events of (241, 1): the flag, the edge logic on a line that is now PPUCTRL bit 7, the hand-off. -/
theorem atNextPos_vblank (hl : s.ppu.line = 241) (hd : s.ppu.dot = 0) :
    atNextPos s = videoHandOff (nmiLineEval { s with ppu.dot := 1, ppu.nmiOccurred := true }) := by
  rw [atNextPos, nextPos_eq_of_dot (by omega), hd]
  exact if_pos ⟨hl, rfl⟩

/-- The events of (261, 1): the flags, the edge logic on a low line. -/
theorem atNextPos_preRender (hl : s.ppu.line = 261) (hd : s.ppu.dot = 0) :
    atNextPos s =
      nmiLineEval { s with
        ppu.dot := 1
        ppu.nmiOccurred := false
        ppu.sprite0Hit := false
        ppu.spriteOverflow := false } := by
  rw [atNextPos, nextPos_eq_of_dot (by omega), hd, ppuFlagEvents, if_neg (by simp [hl])]
  exact if_pos ⟨hl, rfl⟩

/-- Dot 1 is reached from dot 0 of its line (R440). -/
theorem eq_of_nextPos_dot_one {p : Ppu} (h : p.nextPos.dot = 1) : p.dot = 0 ∧ p.nextPos.line = p.line := by
  have hpos := nextPos_eq_of_dot (dot_ne_of_nextPos_dot h)
  rw [hpos] at h ⊢
  exact ⟨Nat.succ.inj h, rfl⟩

/-- Everywhere else there is no flag event. -/
theorem atNextPos_quiet (h : ¬(s.ppu.dot = 0 ∧ (s.ppu.line = 241 ∨ s.ppu.line = 261))) :
    atNextPos s = { s with ppu := s.ppu.nextPos } := by
  refine ppuFlagEvents_none fun ⟨hdot, hline⟩ => h ?_
  obtain ⟨hd, hl⟩ := eq_of_nextPos_dot_one hdot
  exact ⟨hd, hl ▸ hline⟩

/-- Settles O52: an advance is the move to the next position with its flag events, and what it may render there touches
none of the flags and ports in question but the sprite-zero flag, on the visible lines. -/
theorem vblankFlagAndNmiEdge : Obligations.VblankFlagAndNmiEdge := by
  intro s t enabled
  obtain ⟨hoccurred, hoverflow, hqueued, hprev, hvideo⟩ := ppuAdvanceDot_vblank s
  simp only [t, hoccurred, hoverflow, hqueued, hprev, hvideo]
  refine ⟨fun hl hd => ?_, fun hl hd => ?_, fun h => ?_⟩
  · obtain ⟨hline, hdot⟩ := ppuAdvanceDot_position s
    rw [nextPos_eq_of_dot (by omega)] at hline hdot
    have henabled : enabled = s.ppu.ctrl.getLsbD 7 := (bit7_eq s.ppu.ctrl).symm
    rw [atNextPos_vblank hl hd]
    simp [hline, hdot, hl, hd, henabled, videoHandOff, nmiLineEval, Ppu.nmiLine]
  · have hsprite0 : (ppuAdvanceDot s).ppu.sprite0Hit = (atNextPos s).ppu.sprite0Hit := by
      obtain e | ⟨-, e⟩ := ppuAdvanceDot_cases s
      · rw [e]
      · rw [e, renderDot_sprite0Hit_offScreen]
        simp [atNextPos_preRender hl hd, Ppu.onScreen, nmiLineEval, hl]
    rw [hsprite0, atNextPos_preRender hl hd]
    simp [nmiLineEval, Ppu.nmiLine]
  · rw [atNextPos_quiet h, nextPos_eq]
    exact ⟨rfl, rfl, rfl, rfl⟩

end Sys2Proof.Machine
end

section
/-! ## OAM DMA from plain memory (R450) -/

namespace Sys2Proof.Machine

/-- The pages of RAM and PRG space. -/
abbrev PlainPage (page : Byte) : Prop := page.toNat < 0x20 ∨ 0x80 ≤ page.toNat

theorem plain_of_page {page : Byte} (h : PlainPage page) (lo : Byte) : Plain (mkWord page lo) := by
  have hlo := lo.isLt
  have haddr := toNat_mkWord page lo
  obtain h | h := h
  · exact .inl (show (mkWord page lo).toNat < 0x2000 by omega)
  · exact .inr (show 0x8000 ≤ (mkWord page lo).toNat by omega)

/-- The state after one byte of the DMA: the byte at OAMADDR, and OAMADDR one on. -/
def dmaByte (a : Word) (s : State) : State := oamDataWrite (memRead a s).1 (tick (memRead a s).2)

theorem oamDmaFrom_succ (page : Byte) (n i : Nat) (s : State) :
    oamDmaFrom page (n + 1) i s = oamDmaFrom page n (i + 1) (dmaByte (mkWord page (BitVec.ofNat 8 i)) s) := rfl

@[simp] theorem dmaByte_oamAddr (a : Word) (s : State) : (dmaByte a s).ppu.oamAddr = s.ppu.oamAddr + 1 := by
  simp [dmaByte, oamDataWrite]

theorem dmaByte_oam {a : Word} (h : Plain a) (s : State) :
    (dmaByte a s).ppu.oam = memSet s.ppu.oam s.ppu.oamAddr.toNat (peek s a) := by
  simp [dmaByte, oamDataWrite, memRead_plain_value h]

theorem peek_dmaByte {b : Word} (h : Plain b) (a : Word) (s : State) : peek (dmaByte a s) b = peek s b :=
  peek_plain_congr h (by simp [dmaByte]) (by simp [dmaByte]) (by simp [dmaByte])

theorem oamDmaFrom_oamAddr (page : Byte) (n i : Nat) (s : State) :
    (oamDmaFrom page n i s).ppu.oamAddr = s.ppu.oamAddr + BitVec.ofNat 8 n := by
  induction n generalizing i s with
  | zero => exact (BitVec.add_zero _).symm
  | succ n ih =>
    rw [oamDmaFrom_succ, ih, dmaByte_oamAddr, Nat.add_comm n 1, BitVec.ofNat_add, BitVec.add_assoc]
    rfl

/-- Of the 256 places from OAMADDR up, `n` bytes of DMA fill the first `n` with the bytes of the page and leave the
others. -/
theorem oamDmaFrom_oam {page : Byte} (hpage : PlainPage page) {n : Nat} (hn : n ≤ 256) (i : Nat) {s : State}
    (hwf : Memory.wf 256 s.ppu.oam) {k : Nat} (hk : k < 256) :
    memGet (oamDmaFrom page n i s).ppu.oam ((s.ppu.oamAddr.toNat + k) % 256) =
      if k < n then peek s (mkWord page (BitVec.ofNat 8 (i + k)))
      else memGet s.ppu.oam ((s.ppu.oamAddr.toNat + k) % 256) := by
  induction n generalizing i s k with
  | zero => rfl
  | succ n ih =>
    have hplain := plain_of_page hpage (BitVec.ofNat 8 i)
    have haddr := s.ppu.oamAddr.isLt
    have hstored := dmaByte_oam hplain s
    have hwf' : Memory.wf 256 (dmaByte (mkWord page (BitVec.ofNat 8 i)) s).ppu.oam := by
      rw [hstored]
      exact memSet_wf hwf haddr _
    have hnext : (s.ppu.oamAddr + 1).toNat = (s.ppu.oamAddr.toNat + 1) % 256 := BitVec.toNat_add ..
    have hrest {j : Nat} (hj : j < 256) := ih (by omega) (i + 1) hwf' hj
    simp only [dmaByte_oamAddr, hnext, hstored, memGet_memSet hwf.1] at hrest
    rw [oamDmaFrom_succ]
    rcases k with _ | k
    · have hplace : ((s.ppu.oamAddr.toNat + 1) % 256 + 255) % 256 = s.ppu.oamAddr.toNat := by omega
      have hlast := hrest (j := 255) (by decide)
      rw [if_neg (by omega), if_pos hplace, hplace] at hlast
      simpa [Nat.mod_eq_of_lt (show s.ppu.oamAddr.toNat < 256 from haddr)] using hlast
    · have hplace : ((s.ppu.oamAddr.toNat + 1) % 256 + k) % 256 = (s.ppu.oamAddr.toNat + (k + 1)) % 256 := by omega
      have hj := hrest (j := k) (by omega)
      rw [hplace, if_neg (show (s.ppu.oamAddr.toNat + (k + 1)) % 256 ≠ s.ppu.oamAddr.toNat by omega),
        peek_dmaByte (plain_of_page hpage _), Nat.add_right_comm, Nat.add_assoc] at hj
      simpa using hj

/-- The address of byte `k` of a page. -/
theorem mkWord_page (page : Byte) {k : Nat} (hk : k < 256) :
    mkWord page (BitVec.ofNat 8 k) = BitVec.ofNat 16 (256 * page.toNat + k) := by
  have hpage := page.isLt
  apply BitVec.eq_of_toNat_eq
  rw [toNat_mkWord, BitVec.toNat_ofNat, BitVec.toNat_ofNat]
  omega

/-- Settles O53: the copy is `oamDmaFrom_oam` for all 256 bytes, started one tick after the write. -/
theorem oamDmaCopiesPage : Obligations.OamDmaCopiesPage := by
  intro s page hwf hpage
  have hdma : memWrite 0x4014 page s = oamDmaFrom page 256 0 (tick s) := by
    rw [memWrite, busDecodeWrite, if_pos rfl, oamDma]
  refine ⟨fun k hk => ?_, ?_, ?_, ?_, ?_, ?_⟩
  · have hcopy := oamDmaFrom_oam hpage (le_refl 256) 0 (s := tick s) (by simpa using hwf) hk
    rw [if_pos hk, Nat.zero_add, mkWord_page page hk, tick_ppu_oamAddr] at hcopy
    rw [hdma, hcopy]
    refine peek_plain_congr ?_ (tick_ram s) (tick_mapper s) (tick_cfg s)
    rw [← mkWord_page page hk]
    exact plain_of_page hpage _
  · rw [hdma, oamDmaFrom_oamAddr, tick_ppu_oamAddr]
    exact BitVec.add_zero _
  · rw [hdma, oamDmaFrom_cycles, tick_cycles]
  · rw [hdma, oamDmaFrom_ram, tick_ram]
  · rw [hdma, oamDmaFrom_mapper, tick_mapper]
  · exact memWrite_cpu _ page s

end Sys2Proof.Machine
end

section
/-! ## The APU units and the frame sequencer (R461, R467, R490 to R495) -/

namespace Sys2Proof.Machine

theorem toNat_pos_iff {w : Nat} (x : BitVec w) : 0 < x.toNat ↔ x ≠ 0 := by
  rw [Nat.pos_iff_ne_zero, Ne, Ne, BitVec.toNat_eq]
  rfl

/-- A counter that is not 0 counts down by one. -/
theorem sub_one_eq_ofNat {w : Nat} {x : BitVec w} (h : x ≠ 0) : x - 1 = BitVec.ofNat w (x.toNat - 1) := by
  have hpos := (toNat_pos_iff x).mpr h
  have hsub := BitVec.ofNat_sub_ofNat_of_le x.toNat 1 (Nat.lt_of_le_of_lt hpos x.isLt) hpos
  rwa [BitVec.ofNat_toNat, BitVec.setWidth_eq] at hsub

theorem toNat_sub_one {w : Nat} {x : BitVec w} (h : x ≠ 0) : (x - 1).toNat = x.toNat - 1 := by
  rw [sub_one_eq_ofNat h, BitVec.toNat_ofNat, Nat.mod_eq_of_lt (Nat.lt_of_le_of_lt (Nat.sub_le _ 1) x.isLt)]

section
variable (e : Envelope)

theorem envelope_clock_start (h : e.start = true) :
    e.clock = { e with start := false, decay := 15, div := e.volume } := if_pos h

theorem envelope_clock_count (hs : e.start = false) (hd : e.div ≠ 0) :
    e.clock = { e with div := BitVec.ofNat 4 (e.div.toNat - 1) } := by
  rw [Envelope.clock, if_neg (by simp [hs]), if_neg hd, sub_one_eq_ofNat hd]

theorem envelope_clock_wrap (hs : e.start = false) (hd : e.div = 0) :
    e.clock.div = e.volume ∧ e.clock.start = false ∧
      e.clock.decay.toNat = if 0 < e.decay.toNat then e.decay.toNat - 1 else if e.loop then 15 else 0 := by
  rw [Envelope.clock, if_neg (by simp [hs]), if_pos hd]
  refine ⟨rfl, hs, ?_⟩
  simp only [toNat_pos_iff]
  by_cases hdecay : e.decay = 0
  · cases e.loop <;> simp [hdecay]
  · rw [if_pos hdecay, if_pos hdecay, toNat_sub_one hdecay]

end

theorem clockLength_toNat (halt : Bool) (n : Byte) :
    (clockLength halt n).toNat = if halt = false ∧ 0 < n.toNat then n.toNat - 1 else n.toNat := by
  unfold clockLength
  by_cases hcount : halt = false ∧ n ≠ 0
  · rw [if_pos (by simpa using hcount), if_pos (by rwa [toNat_pos_iff]), toNat_sub_one hcount.2]
  · rw [if_neg (by simpa using hcount), if_neg (by rwa [toNat_pos_iff])]

section
variable (n : Noise)

theorem nextLfsr_shift {k : Nat} (hk : k < 14) : n.nextLfsr.getLsbD k = n.lfsr.getLsbD (k + 1) := by
  rw [Noise.nextLfsr, BitVec.getLsbD_append, if_pos hk, BitVec.getLsbD_extractLsb', Nat.add_comm]
  simp [hk]

theorem nextLfsr_top :
    n.nextLfsr.getLsbD 14 = xor (n.lfsr.getLsbD 0) (n.lfsr.getLsbD (if n.short then 6 else 1)) := by
  rw [Noise.nextLfsr, BitVec.getLsbD_append, if_neg (by decide)]
  cases n.short <;> simp

end

section
variable (w : Sweep) (one : Bool) (period : BitVec 11)

theorem sweep_target :
    w.target one period =
      if w.negate then (period.toNat - period.toNat / 2 ^ w.shift.toNat - one.toNat : Int)
      else period.toNat + period.toNat / 2 ^ w.shift.toNat := by
  have hdelta : ((period >>> w.shift.toNat).toNat : Int) = period.toNat / 2 ^ w.shift.toNat := by
    rw [BitVec.toNat_ushiftRight, Nat.shiftRight_eq_div_pow]
    simp
  unfold Sweep.target
  simp only [hdelta]
  cases one <;> simp

theorem sweep_mute_eq_false : w.mute one period = false ↔ ¬(0x7FF < w.target one period ∨ period.toNat < 8) := by
  simp [Sweep.mute]

/-- The divider of a sweep (R492): reload or count down. -/
theorem sweep_divider :
    (if w.div = 0 ∨ w.reload then { w with div := w.dividerPeriod, reload := false } else { w with div := w.div - 1 } :
        Sweep) =
      if w.div = 0 ∨ w.reload = true then { w with div := w.dividerPeriod, reload := false }
      else { w with div := BitVec.ofNat 3 (w.div.toNat - 1) } := by
  split_ifs with h
  · rfl
  · rw [sub_one_eq_ofNat (not_or.mp h).1]

end

theorem clockSweep_eq (p : Pulse) (one : Bool) :
    let w := p.sweep
    let target := w.target one p.period
    p.clockSweep one =
      { p with
        period :=
          if w.div = 0 ∧ w.enable = true ∧ w.shift ≠ 0 ∧ ¬(0x7FF < target ∨ p.period.toNat < 8) then
            BitVec.ofInt 11 target
          else p.period
        sweep :=
          if w.div = 0 ∨ w.reload = true then { w with div := w.dividerPeriod, reload := false }
          else { w with div := BitVec.ofNat 3 (w.div.toNat - 1) } } := by
  intro w target
  simp only [Pulse.clockSweep, sweep_mute_eq_false, sweep_divider]
  rfl

theorem clockLinear_eq (t : Triangle) :
    t.clockLinear =
      { t with
        linear := if t.reloadFlag then t.reloadValue else BitVec.ofNat 7 (t.linear.toNat - 1)
        reloadFlag := t.reloadFlag && t.control } := by
  have hcount : (if t.linear ≠ 0 then t.linear - 1 else t.linear) = BitVec.ofNat 7 (t.linear.toNat - 1) := by
    split_ifs with h
    · exact sub_one_eq_ofNat h
    · simp [not_not.mp h]
  rw [Triangle.clockLinear, hcount]

section
variable (a : Apu)

/-- What the sequencer does at each count (R461). -/
theorem frameStep_quarter (h : a.fs + 1 = 7457 ∨ a.fs + 1 = 22371) :
    a.frameStep = { a with fs := a.fs + 1 }.quarter := by
  obtain h | h := h <;> simp [Apu.frameStep, h]

theorem frameStep_half (h : a.fs + 1 = 14913) : a.frameStep = { a with fs := a.fs + 1 }.quarter.half := by
  simp [Apu.frameStep, h]

theorem frameStep_last4 (hfour : a.fiveStep = false) (h : a.fs + 1 = 29829) :
    a.frameStep =
      { { a with fs := a.fs + 1 }.quarter.half with fs := 0, frameFlag := a.frameFlag || !a.irqInhibit } := by
  simp [Apu.frameStep, h, hfour]

theorem frameStep_last5 (hfive : a.fiveStep = true) (h : a.fs + 1 = 37281) :
    a.frameStep = { { a with fs := a.fs + 1 }.quarter.half with fs := 0 } := by
  simp [Apu.frameStep, h, hfive]

theorem frameStep_idle (h : a.fs + 1 ∉ [7457, 14913, 22371, if a.fiveStep then 37281 else 29829]) :
    a.frameStep = { a with fs := a.fs + 1 } := by
  simp only [List.mem_cons, List.not_mem_nil, or_false, not_or] at h
  obtain ⟨h1, h2, h3, h4⟩ := h
  unfold Apu.frameStep
  dsimp only
  rw [if_neg h1, if_neg h2, if_neg h3]
  split_ifs at h4 ⊢ <;> rfl

end

/-- Settles O56, unit by unit: the equations above, and those of the two frame events by definition. -/
theorem apuUnitsAndSequencer : Obligations.ApuUnitsAndSequencer := by
  refine ⟨fun e => ⟨envelope_clock_start e, envelope_clock_count e, envelope_clock_wrap e⟩, clockLength_toNat,
    fun n hn => ⟨nextLfsr_ne hn, fun k hk => nextLfsr_shift n hk, nextLfsr_top n⟩, fun p one => ?_,
    fun a => ⟨?_, rfl⟩,
    fun a => ⟨frameStep_quarter a, frameStep_half a, frameStep_last4 a, frameStep_last5 a, frameStep_idle a⟩⟩
  · simpa only [sweep_target] using clockSweep_eq p one
  · simp only [Apu.quarter, clockLinear_eq]

end Sys2Proof.Machine
end

section
/-! ## Banks (R471 to R476) -/

namespace Sys2Proof.Machine

/-- A place within a bank that is present lies in the array. -/
theorem bank_place_lt {bank n off size : Nat} (hbank : bank < n) (hoff : off < size) :
    bank * size + off < size * n :=
  calc bank * size + off < (bank + 1) * size := by rw [Nat.add_mul, Nat.one_mul]; omega
    _ ≤ n * size := Nat.mul_le_mul_right size hbank
    _ = size * n := Nat.mul_comm n size

section
variable {s : State} {a : Word}

theorem memRead_prg (h : InRom a) {k : Nat} (hplace : s.mapper.prgIndex s.cfg a.toNat = k)
    (hk : k < 16384 * s.cfg.prgBanks) : (memRead a s).1 = memGet s.cfg.prg k := by
  rw [memRead_inRom h, prgRead, hplace, prgByte, Nat.mod_eq_of_lt hk]

/-- A bank of 16 KiB (R473, R476). -/
theorem memRead_bank16 (h : InRom a) {bank : Nat} (hbank : bank < s.cfg.prgBanks)
    (hplace : s.mapper.prgIndex s.cfg a.toNat = bank * 16384 + a.toNat % 16384) :
    (memRead a s).1 = memGet s.cfg.prg (bank * 16384 + a.toNat % 16384) :=
  memRead_prg h hplace (bank_place_lt hbank (Nat.mod_lt _ (by decide)))

/-- A bank of 32 KiB (R475, R476), for an even number of 16 KiB banks. -/
theorem memRead_bank32 (h : InRom a) (hbanks : 0 < s.cfg.prgBanks) (heven : s.cfg.prgBanks % 2 = 0) (reg : Nat)
    (hplace : s.mapper.prgIndex s.cfg a.toNat = reg % (s.cfg.prgBanks / 2) * 32768 + (a.toNat - 0x8000)) :
    (memRead a s).1 = memGet s.cfg.prg (reg % (s.cfg.prgBanks / 2) * 32768 + (a.toNat - 0x8000)) := by
  have haddr := a.isLt
  have hlt := bank_place_lt (Nat.mod_lt reg (show 0 < s.cfg.prgBanks / 2 by omega))
    (show a.toNat - 0x8000 < 32768 by omega)
  exact memRead_prg h hplace (by omega)

/-- Without banks the array repeats (R472). -/
theorem memRead_unbanked (h : InRom a) (hbanks : 0 < s.cfg.prgBanks)
    (hplace : s.mapper.prgIndex s.cfg a.toNat = (a.toNat - 0x8000) % (16384 * s.cfg.prgBanks)) :
    (memRead a s).1 = memGet s.cfg.prg ((a.toNat - 0x8000) % (16384 * s.cfg.prgBanks)) :=
  memRead_prg h hplace (Nat.mod_lt _ (by omega))

end

theorem uxrom_prgIndex (b : BitVec 3) (cfg : Cfg) (a : Nat) :
    (Mapper.uxrom b).prgIndex cfg a =
      (if a < 0xC000 then b.toNat % cfg.prgBanks else cfg.prgBanks - 1) * 16384 + a % 16384 := by
  rw [ite_mul, ite_add]
  rfl

section
variable (m : Mmc1)

/-- MMC1's PRG mode, control bits 3:2 (R476). -/
theorem mmc1_prgMode : (m.control.extractLsb' 2 2).toNat = m.control.toNat / 4 % 4 := by
  rw [BitVec.extractLsb'_toNat, Nat.shiftRight_eq_div_pow]

theorem mmc1_prgBank16 : (m.prg.extractLsb' 0 4).toNat = m.prg.toNat % 16 := by
  rw [BitVec.extractLsb'_toNat, Nat.shiftRight_zero]

theorem mmc1_prgBank32 : (m.prg.extractLsb' 1 3).toNat = m.prg.toNat / 2 % 8 := by
  rw [BitVec.extractLsb'_toNat, Nat.shiftRight_eq_div_pow, Nat.pow_one]

variable (cfg : Cfg) (a : Nat)

/-- MMC1's PRG rule in its modes (R476). -/
theorem mmc1_prgIndex_mode3 (h : m.control.toNat / 4 % 4 = 3) :
    m.prgIndex cfg a =
      (if a < 0xC000 then m.prg.toNat % 16 % cfg.prgBanks else cfg.prgBanks - 1) * 16384 + a % 16384 := by
  simp only [Mmc1.prgIndex, mmc1_prgMode, mmc1_prgBank16, h]
  split <;> rfl

theorem mmc1_prgIndex_mode2 (h : m.control.toNat / 4 % 4 = 2) :
    m.prgIndex cfg a = (if a < 0xC000 then 0 else m.prg.toNat % 16 % cfg.prgBanks) * 16384 + a % 16384 := by
  simp only [Mmc1.prgIndex, mmc1_prgMode, mmc1_prgBank16, h]
  split
  · rw [Nat.zero_mul, Nat.zero_add]
  · rfl

theorem mmc1_prgIndex_mode01 (h : m.control.toNat / 4 % 4 < 2) :
    m.prgIndex cfg a = m.prg.toNat / 2 % 8 % (cfg.prgBanks / 2) * 32768 + (a - 0x8000) := by
  simp only [Mmc1.prgIndex, mmc1_prgMode, mmc1_prgBank32]
  split <;> omega

end

theorem prg_of_mapper (s : State) (a : Word) (ha : InRom a) (hbanks : 0 < s.cfg.prgBanks) :
    let n := s.cfg.prgBanks
    let byte (k : Nat) : Byte := memGet s.cfg.prg k
    let lower := a.toNat < 0xC000
    let off := a.toNat % 16384
    (s.mapper = .nrom → n ≤ 2 → (memRead a s).1 = byte ((a.toNat - 0x8000) % (16384 * n))) ∧
    (∀ c, s.mapper = .cnrom c → n ≤ 2 → (memRead a s).1 = byte ((a.toNat - 0x8000) % (16384 * n))) ∧
    (∀ b, s.mapper = .uxrom b →
      (memRead a s).1 = byte ((if lower then b.toNat % n else n - 1) * 16384 + off)) ∧
    (∀ c p, s.mapper = .gxrom c p → n % 2 = 0 →
      (memRead a s).1 = byte (p.toNat % (n / 2) * 32768 + (a.toNat - 0x8000))) ∧
    (∀ m, s.mapper = .mmc1 m →
      (m.control.toNat / 4 % 4 = 3 →
        (memRead a s).1 = byte ((if lower then m.prg.toNat % 16 % n else n - 1) * 16384 + off)) ∧
      (m.control.toNat / 4 % 4 = 2 →
        (memRead a s).1 = byte ((if lower then 0 else m.prg.toNat % 16 % n) * 16384 + off)) ∧
      (m.control.toNat / 4 % 4 < 2 → n % 2 = 0 →
        (memRead a s).1 = byte (m.prg.toNat / 2 % 8 % (n / 2) * 32768 + (a.toNat - 0x8000)))) := by
  intro n byte lower off
  have hselect (reg : Nat) : reg % n < n := Nat.mod_lt reg hbanks
  have hlast : n - 1 < n := Nat.sub_lt hbanks Nat.one_pos
  refine ⟨fun h _ => memRead_unbanked ha hbanks (by rw [h]; rfl),
    fun c h _ => memRead_unbanked ha hbanks (by rw [h]; rfl), fun b h => ?_,
    fun c p h heven => memRead_bank32 ha hbanks heven _ (by rw [h]; rfl), fun m h => ⟨fun hmode => ?_, fun hmode => ?_,
      fun hmode heven => memRead_bank32 ha hbanks heven _ (by rw [h]; exact mmc1_prgIndex_mode01 m _ _ hmode)⟩⟩
  · refine memRead_bank16 ha ?_ ?_
    · split
      exacts [hselect _, hlast]
    · rw [h]
      exact uxrom_prgIndex b _ _
  · refine memRead_bank16 ha ?_ ?_
    · split
      exacts [hselect _, hlast]
    · rw [h]
      exact mmc1_prgIndex_mode3 m _ _ hmode
  · refine memRead_bank16 ha ?_ ?_
    · split
      exacts [hbanks, hselect _]
    · rw [h]
      exact mmc1_prgIndex_mode2 m _ _ hmode

section
variable {s : State} {a : VAddr}

theorem ppuRead_chrRam (h : a.toNat < 0x2000) (hbanks : s.cfg.chrBanks = 0) :
    ppuRead s a = memGet s.chrRam a.toNat := by
  rw [ppuRead_place, if_pos h, chrRead, if_pos hbanks]

theorem ppuRead_chr (h : a.toNat < 0x2000) (hbanks : 0 < s.cfg.chrBanks) {k : Nat}
    (hplace : s.mapper.chrIndex s.cfg a.toNat = k) (hk : k < 8192 * s.cfg.chrBanks) :
    ppuRead s a = memGet s.cfg.chr k := by
  rw [ppuRead_place, if_pos h, chrRead, if_neg (Nat.ne_of_gt hbanks), hplace, chrByte, Nat.mod_eq_of_lt hk]

/-- A bank of 8 KiB (R474 to R476). -/
theorem ppuRead_bank8 (h : a.toNat < 0x2000) (hbanks : 0 < s.cfg.chrBanks) (reg : Nat)
    (hplace : s.mapper.chrIndex s.cfg a.toNat = reg % s.cfg.chrBanks * 8192 + a.toNat) :
    ppuRead s a = memGet s.cfg.chr (reg % s.cfg.chrBanks * 8192 + a.toNat) :=
  ppuRead_chr h hbanks hplace (bank_place_lt (Nat.mod_lt reg hbanks) h)

/-- A bank of 4 KiB (R476). -/
theorem ppuRead_bank4 (h : a.toNat < 0x2000) (hbanks : 0 < s.cfg.chrBanks) (reg : Nat)
    (hplace : s.mapper.chrIndex s.cfg a.toNat = reg % (2 * s.cfg.chrBanks) * 4096 + a.toNat % 4096) :
    ppuRead s a = memGet s.cfg.chr (reg % (2 * s.cfg.chrBanks) * 4096 + a.toNat % 4096) := by
  have hlt := bank_place_lt (Nat.mod_lt reg (show 0 < 2 * s.cfg.chrBanks by omega))
    (Nat.mod_lt a.toNat (show 0 < 4096 by decide))
  exact ppuRead_chr h hbanks hplace (by omega)

theorem mmc1_chrIndex (m : Mmc1) (cfg : Cfg) (k : Nat) :
    m.chrIndex cfg k =
      if m.control.toNat / 16 = 1 then (if k < 4096 then m.chr0 else m.chr1).toNat % (2 * cfg.chrBanks) * 4096 + k % 4096
      else m.chr0.toNat / 2 % cfg.chrBanks * 8192 + k := by
  have hcontrol := m.control.isLt
  have hchr0 := m.chr0.isLt
  have hmode : m.control.getLsbD 4 = true ↔ m.control.toNat / 16 = 1 := by
    rw [← BitVec.testBit_toNat, Nat.testBit_eq_decide_div_mod_eq, decide_eq_true_eq]
    omega
  have hbank : (m.chr0.extractLsb' 1 4).toNat = m.chr0.toNat / 2 := by
    rw [BitVec.extractLsb'_toNat, Nat.shiftRight_eq_div_pow]
    omega
  simp only [Mmc1.chrIndex, hmode, hbank]
  split
  · split <;> rfl
  · rfl

end

theorem chr_of_mapper (s : State) (a : VAddr) (ha : a.toNat < 0x2000) (hbanks : 0 < s.cfg.chrBanks) :
    let n := s.cfg.chrBanks
    let k := a.toNat
    let byte (j : Nat) : Byte := memGet s.cfg.chr j
    (s.mapper = .nrom → ppuRead s a = byte k) ∧
    (∀ b, s.mapper = .uxrom b → ppuRead s a = byte k) ∧
    (∀ c, s.mapper = .cnrom c → ppuRead s a = byte (c.toNat % n * 8192 + k)) ∧
    (∀ c p, s.mapper = .gxrom c p → ppuRead s a = byte (c.toNat % n * 8192 + k)) ∧
    (∀ m, s.mapper = .mmc1 m →
      (m.control.toNat / 16 = 0 → ppuRead s a = byte (m.chr0.toNat / 2 % n * 8192 + k)) ∧
      (m.control.toNat / 16 = 1 →
        ppuRead s a = byte ((if k < 4096 then m.chr0 else m.chr1).toNat % (2 * n) * 4096 + k % 4096))) := by
  intro n k byte
  have hfirst : k < 8192 * n := by omega
  refine ⟨fun h => ppuRead_chr ha hbanks (by rw [h]; rfl) hfirst,
    fun b h => ppuRead_chr ha hbanks (by rw [h]; rfl) hfirst,
    fun c h => ppuRead_bank8 ha hbanks _ (by rw [h]; rfl), fun c p h => ppuRead_bank8 ha hbanks _ (by rw [h]; rfl),
    fun m h => ⟨fun hmode => ppuRead_bank8 ha hbanks _ ?_, fun hmode => ppuRead_bank4 ha hbanks _ ?_⟩⟩
  · rw [h, Mapper.chrIndex, mmc1_chrIndex, if_neg (by omega)]
  · rw [h, Mapper.chrIndex, mmc1_chrIndex, if_pos hmode]

theorem ofNat_field (v : Byte) (k w : Nat) : BitVec.ofNat w (v.toNat / 2 ^ k % 2 ^ w) = v.extractLsb' k w := by
  apply BitVec.eq_of_toNat_eq
  rw [BitVec.toNat_ofNat, Nat.mod_mod, BitVec.extractLsb'_toNat, Nat.shiftRight_eq_div_pow]

/-- The bank registers a write to `$8000-$FFFF` sets (R472 to R475). -/
theorem mapper_write_regs (a : Word) (v : Byte) (b d : BitVec 3) (c : BitVec 2) :
    Mapper.write .nrom a v = .nrom ∧
    Mapper.write (.uxrom b) a v = .uxrom (BitVec.ofNat 3 (v.toNat % 8)) ∧
    Mapper.write (.cnrom c) a v = .cnrom (BitVec.ofNat 2 (v.toNat % 4)) ∧
    Mapper.write (.gxrom b d) a v = .gxrom (BitVec.ofNat 3 (v.toNat % 8)) (BitVec.ofNat 3 (v.toNat / 16 % 8)) := by
  have h8 : BitVec.ofNat 3 (v.toNat % 8) = v.extractLsb' 0 3 := by simpa using ofNat_field v 0 3
  have h4 : BitVec.ofNat 2 (v.toNat % 4) = v.extractLsb' 0 2 := by simpa using ofNat_field v 0 2
  have hhigh : BitVec.ofNat 3 (v.toNat / 16 % 8) = v.extractLsb' 4 3 := ofNat_field v 4 3
  rw [h8, h4, hhigh]
  exact ⟨rfl, rfl, rfl, rfl⟩

/-- Settles O57: `prg_of_mapper`, `chr_of_mapper` and `mapper_write_regs`. -/
theorem mapperBanking : Obligations.MapperBanking := by
  refine ⟨prg_of_mapper, fun s a ha => ⟨ppuRead_chrRam ha, chr_of_mapper s a ha⟩, fun s a v => ⟨fun ha => ?_,
    fun ha b c d => ?_⟩⟩
  · exact (memWrite_mapper a v s).trans (if_neg ha)
  · obtain ⟨hnrom, huxrom, hcnrom, hgxrom⟩ := mapper_write_regs a v b d c
    rw [(memWrite_mapper a v s).trans (if_pos ha)]
    exact ⟨fun h => by rw [h, hnrom], fun h => by rw [h, huxrom], fun h => by rw [h, hcnrom], fun h => by rw [h, hgxrom]⟩

end Sys2Proof.Machine
end

section
/-! ## The serial port of MMC1 (R476) -/

namespace Sys2Proof.Machine

/-- Bits 0 of a list of bytes, first lowest. -/
def serialBits (l : List Byte) : Nat := (l.zipIdx.map fun p => p.1.toNat % 2 * 2 ^ p.2).sum

theorem serialBits_append (l : List Byte) (v : Byte) :
    serialBits (l ++ [v]) = serialBits l + v.toNat % 2 * 2 ^ l.length := by
  simp [serialBits, List.zipIdx_append]

theorem serialBits_lt (l : List Byte) : serialBits l < 2 ^ l.length := by
  induction l using List.reverseRecOn with
  | nil => decide
  | append_singleton l v ih =>
    rw [serialBits_append, List.length_append, List.length_singleton, Nat.pow_succ]
    obtain h | h := Nat.mod_two_eq_zero_or_one v.toNat <;> rw [h] <;> omega

/-- MMC1 with the bytes of `l` shifted in. -/
def mmc1After (m : Mmc1) (l : List Byte) : Mmc1 :=
  { m with shift := BitVec.ofNat 5 (serialBits l), count := l.length }

theorem mmc1After_nil {m : Mmc1} (hcount : m.count = 0) (hshift : m.shift = 0) : mmc1After m [] = m := by
  obtain ⟨shift, count⟩ := m
  dsimp only at hcount hshift
  subst hcount hshift
  rfl

/-- Bit 0 of a byte, put above the bits shifted in so far. -/
theorem shiftIn_eq (l : List Byte) (v : Byte) :
    BitVec.ofNat 5 (serialBits l) ||| ((v.setWidth 5 &&& 1#5) <<< l.length) =
      BitVec.ofNat 5 (serialBits (l ++ [v])) := by
  have hbit : v.setWidth 5 &&& 1#5 = BitVec.ofNat 5 (v.toNat % 2) := by
    revert v
    decide
  have hplace : BitVec.ofNat 5 (v.toNat % 2) <<< l.length = BitVec.ofNat 5 (v.toNat % 2 * 2 ^ l.length) := by
    apply BitVec.eq_of_toNat_eq
    rw [BitVec.toNat_shiftLeft, Nat.shiftLeft_eq, BitVec.toNat_ofNat, BitVec.toNat_ofNat, Nat.mod_mul_mod]
  rw [hbit, hplace, ← BitVec.ofNat_or, serialBits_append, Nat.add_comm, Nat.mul_comm,
    Nat.two_pow_add_eq_or_of_lt (serialBits_lt l), Nat.or_comm]

section
variable {m : Mmc1} {l : List Byte} {a : Word} {v : Byte}

theorem mmc1After_write (hl : l.length < 4) (hv : v.toNat < 128) :
    (mmc1After m l).write a v = mmc1After m (l ++ [v]) := by
  have hbit7 : ¬v.getLsbD 7 = true := by rwa [bit7_eq, decide_eq_true_eq, Nat.not_le]
  have hcount : ¬l.length + 1 = 5 := by omega
  simp only [Mmc1.write, mmc1After, if_neg hbit7, if_neg hcount, shiftIn_eq, List.length_append, List.length_singleton]

/-- Which register the fifth write's address selects (R476). -/
def mmc1Commit (a : Word) (x : BitVec 5) (m : Mmc1) : Mmc1 :=
  if a.toNat < 0xA000 then { m with control := x }
  else if a.toNat < 0xC000 then { m with chr0 := x }
  else if a.toNat < 0xE000 then { m with chr1 := x }
  else { m with prg := x }

theorem mmc1After_write_fifth (hl : l.length = 4) (ha : InRom a) (hv : v.toNat < 128) :
    (mmc1After m l).write a v =
      mmc1Commit a (BitVec.ofNat 5 (serialBits (l ++ [v]))) { m with shift := 0, count := 0 } := by
  have hbit7 : ¬v.getLsbD 7 = true := by rwa [bit7_eq, decide_eq_true_eq, Nat.not_le]
  have hselect : (a.extractLsb' 13 2).toNat = a.toNat / 8192 % 4 := by
    rw [BitVec.extractLsb'_toNat, Nat.shiftRight_eq_div_pow]
  have haddr := a.isLt
  simp only [InRom] at ha
  have hshift := shiftIn_eq l v
  rw [hl] at hshift
  simp only [Mmc1.write, mmc1After, if_neg hbit7, hl, hshift, hselect, if_true, Nat.reduceAdd]
  unfold mmc1Commit
  split_ifs
  · simp only [show a.toNat / 8192 % 4 = 0 by omega]
  · simp only [show a.toNat / 8192 % 4 = 1 by omega]
  · simp only [show a.toNat / 8192 % 4 = 2 by omega]
  · simp only [show a.toNat / 8192 % 4 = 3 by omega]

theorem mmc1After_write_clear (hv : 128 ≤ v.toNat) :
    (mmc1After m l).write a v = { m with shift := 0, count := 0 } := by
  rw [Mmc1.write, if_pos (by rwa [bit7_eq, decide_eq_true_eq])]
  rfl

variable {s : State}

theorem memWrite_mmc1 (h : s.mapper = .mmc1 m) (ha : InRom a) (v : Byte) :
    (memWrite a v s).mapper = .mmc1 (m.write a v) := by
  rw [(memWrite_mapper a v s).trans (if_pos ha), h]
  rfl

theorem memWrite_mmc1After (h : s.mapper = .mmc1 (mmc1After m l)) (hl : l.length < 4) (ha : InRom a)
    (hv : v.toNat < 128) : (memWrite a v s).mapper = .mmc1 (mmc1After m (l ++ [v])) := by
  rw [memWrite_mmc1 h ha, mmc1After_write hl hv]

end

/-- Settles O58: four writes only shift (`mmc1After_write`), the fifth commits or clears. -/
theorem mmc1SerialWrites : Obligations.Mmc1SerialWrites := by
  intro s m hm hcount hshift a1 a2 a3 a4 a5 v1 v2 v3 v4 v5 ha hv
  simp only [List.forall_mem_cons] at ha hv
  obtain ⟨ha1, ha2, ha3, ha4, ha5, -⟩ := ha
  obtain ⟨hv1, hv2, hv3, hv4, hv5, -⟩ := hv
  have hempty : { m with shift := 0, count := 0 } = m := mmc1After_nil hcount hshift
  have h0 : s.mapper = .mmc1 (mmc1After m []) := hm.trans (congrArg _ hempty.symm)
  have h1 := memWrite_mmc1After h0 (by decide) ha1 hv1
  have h2 := memWrite_mmc1After h1 (by simp) ha2 hv2
  have h3 := memWrite_mmc1After h2 (by simp) ha3 hv3
  have h4 := memWrite_mmc1After h3 (by simp) ha4 hv4
  refine ⟨h4, ?_, fun w hw => ?_⟩
  · refine (memWrite_mmc1 h4 ha5 v5).trans (congrArg _ ?_)
    rw [mmc1After_write_fifth rfl ha5 hv5, hempty]
    rfl
  · refine (memWrite_mmc1 h4 ha5 w).trans (congrArg _ ?_)
    rw [mmc1After_write_clear hw, hempty]

end Sys2Proof.Machine
end

section
/-! ## The serial port of the controller (R480) -/

namespace Sys2Proof.Machine

theorem and_one_eq_bit (x : Byte) : x &&& 1 = BitVec.ofNat 8 (x.getLsbD 0).toNat := by
  revert x
  decide

/-- The controller's shift register after a read: one place on, a one coming in. -/
def shiftOne (x : Byte) : Byte := (x >>> 1) ||| 0x80

theorem getLsbD_shiftOne (x : Byte) {j : Nat} (hj : j < 8) :
    (shiftOne x).getLsbD j = if j < 7 then x.getLsbD (j + 1) else true := by
  have hhigh : ∀ i < 8, (0x80 : Byte).getLsbD i = decide (i = 7) := by decide
  rw [shiftOne, BitVec.getLsbD_or, BitVec.getLsbD_ushiftRight, hhigh j hj, Nat.add_comm]
  split_ifs with h
  · rw [decide_eq_false (by omega), Bool.or_false]
  · rw [decide_eq_true (by omega), Bool.or_true]

/-- After `k` reads, bit `j` is bit `j + k` of the button byte, and a one past its end. -/
theorem getLsbD_shiftOne_iterate (b : Byte) (k : Nat) {j : Nat} (hj : j < 8) :
    (shiftOne^[k] b).getLsbD j = if j + k < 8 then b.getLsbD (j + k) else true := by
  induction k generalizing j with
  | zero => exact (if_pos hj).symm
  | succ k ih =>
    rw [Function.iterate_succ_apply', getLsbD_shiftOne _ hj]
    split_ifs with h7 h8 h8
    · rw [ih (by omega), if_pos (by omega), Nat.add_right_comm]
      rfl
    · rw [ih (by omega), if_neg (by omega)]
    · omega
    · rfl

theorem shiftOne_iterate_bit (b : Byte) (k : Nat) :
    shiftOne^[k] b &&& 1 = BitVec.ofNat 8 (if k < 8 then b.toNat / 2 ^ k % 2 else 1) := by
  have hbit := getLsbD_shiftOne_iterate b k (j := 0) (by decide)
  rw [Nat.zero_add] at hbit
  rw [and_one_eq_bit, hbit]
  split_ifs
  · rw [← BitVec.testBit_toNat, Nat.toNat_testBit]
  · rfl

variable {s : State} {x : Byte}

theorem memRead_controller (s : State) : memRead 0x4016 s = controllerRead (tick s) := rfl

theorem memWrite_controller (v : Byte) (s : State) : memWrite 0x4016 v s = controllerWrite v (tick s) := rfl

/-- Reads of a released controller shift it, one place each. -/
theorem busRun_reads_released (h : s.ctl = ⟨false, x⟩) (k : Nat) :
    (busRun (List.replicate k (.read 0x4016)) s).ctl = ⟨false, shiftOne^[k] x⟩ := by
  induction k generalizing s x with
  | zero => exact h
  | succ k ih =>
    have hread : (memRead 0x4016 s).2.ctl = ⟨false, shiftOne x⟩ := by
      rw [memRead_controller, controllerRead, tick_ctl, h]
      rfl
    rw [List.replicate_succ, Function.iterate_succ_apply]
    exact ih hread

/-- Reads of a strobed controller leave it alone. -/
theorem busRun_reads_strobed (h : s.ctl = ⟨true, x⟩) (k : Nat) :
    (busRun (List.replicate k (.read 0x4016)) s).ctl = ⟨true, x⟩ := by
  induction k generalizing s with
  | zero => exact h
  | succ k ih =>
    have hread : (memRead 0x4016 s).2.ctl = ⟨true, x⟩ := by
      rw [memRead_controller, controllerRead, tick_ctl, h]
      exact (tick_ctl s).trans h
    rw [List.replicate_succ]
    exact ih hread

theorem memRead_controller_bit (s : State) : (memRead 0x4016 s).1 = s.ctl.shift &&& 1 := by
  rw [memRead_controller, controllerRead, tick_ctl]
  split <;> rfl

theorem getLsbD_zero_eq (v : Byte) : v.getLsbD 0 = decide (v.toNat % 2 = 1) := by
  revert v
  decide

theorem memWrite_strobe {b : Byte} {rest : List Byte} (h : s.input = b :: rest) {v : Byte} (hv : v.toNat % 2 = 1) :
    (memWrite 0x4016 v s).ctl = ⟨true, b⟩ := by
  rw [memWrite_controller, controllerWrite, if_pos (by rwa [getLsbD_zero_eq, decide_eq_true_eq]), sampleButtons, tick_input, h]

theorem memWrite_release (h : s.ctl = ⟨true, x⟩) {w : Byte} (hw : w.toNat % 2 = 0) :
    (memWrite 0x4016 w s).ctl = ⟨false, x⟩ := by
  rw [memWrite_controller, controllerWrite, if_neg (by rw [getLsbD_zero_eq, decide_eq_true_eq]; omega), tick_ctl, h]

/-- Settles O59: the bit read is bit 0 of a shift register that `busRun_reads_released` and `busRun_reads_strobed`
give. -/
theorem controllerSerialRead : Obligations.ControllerSerialRead := by
  intro s b rest v w hinput hv hw k
  have hstrobed := memWrite_strobe hinput hv
  have hreleased := memWrite_release hstrobed hw
  refine ⟨?_, ?_⟩
  · rw [memRead_controller_bit]
    exact (congrArg (·.shift &&& 1) (busRun_reads_released hreleased k)).trans (shiftOne_iterate_bit b k)
  · rw [memRead_controller_bit]
    refine (congrArg (·.shift &&& 1) (busRun_reads_strobed hstrobed k)).trans ?_
    simpa using shiftOne_iterate_bit b 0

end Sys2Proof.Machine
end

section
/-! ## Reset (R600, R601) -/

namespace Sys2Proof.Machine

theorem ppuReset_inv : Ppu.reset.Inv where
  lineLt := by decide
  dotLt := by decide
  secOamLen := by decide
  sprLen := by decide
  oamWf := nil_wf 256
  nametableWf := nil_wf 2048
  paletteWf := nil_wf 32
  paletteSix := by simp [Ppu.reset]
  framebufferRising := by simp [Ppu.reset, Rising]
  framebufferRange := by simp [Ppu.reset]

theorem apuReset_inv : Apu.reset.Inv where
  fsLt := by decide
  lfsrNe := by decide

theorem mapperReset_inv (m : Mapper) : m.reset.Inv := by
  cases m
  case mmc1 => exact show 0 < 5 by decide
  all_goals trivial

theorem hostReset_inv (s : State) : Inv (hostReset s) where
  ramWf := nil_wf 2048
  chrRamWf := nil_wf 8192
  ppu := ppuReset_inv
  apu := apuReset_inv
  mapper := mapperReset_inv s.mapper
  nmiLine := show false = Ppu.reset.nmiLine by decide
  buffer := Nat.pos_of_ne_zero

/-- The blank cartridge has the word 0 at `$FFFC`. -/
theorem hostReset_reset : hostReset State.reset = State.reset := by
  decide

/-- Settles O11: `hostReset_inv`, and the reset state is its own reset. -/
theorem resetMeetsInvariant : Obligations.ResetMeetsInvariant := by
  have hinv := hostReset_inv State.reset
  rw [hostReset_reset] at hinv
  exact ⟨hostReset_inv, hinv, hostReset_reset⟩

theorem hostReset_cpu (s : State) :
    (hostReset s).cpu =
      { Cpu.reset with pc := mkWord (peek (hostReset s) 0xFFFD) (peek (hostReset s) 0xFFFC) } := by
  rw [hostReset, setPc_eq, setCpu_peek, setCpu_peek]
  rfl

/-- An empty framebuffer is black. -/
theorem rgb_nil (x y : Nat) : Framebuffer.rgb [] x y = 0 := rfl

/-- Settles O60, the program counter by `hostReset_cpu`, the rest by the definition of reset. -/
theorem resetValues : Obligations.ResetValues := by
  intro s
  refine ⟨hostReset_cpu s, rfl, rfl, rfl, rfl, fun k => ⟨rfl, rfl, rfl, rfl, rfl⟩, rgb_nil, rfl, rfl, rfl, ?_,
    rfl⟩
  · cases hm : s.mapper <;> exact congrArg Mapper.reset hm

end Sys2Proof.Machine
end
